-- ==== Sys2Proof/Word.lean ====
section
/-! DEFINITION. The words of the chipper CORE: bytes, 16-bit words, 12-bit addresses, register indices
and small counts (spec/00_scope.md R12, spec/30_encoding.md R91). -/

namespace Sys2Proof

/-- An 8-bit unsigned value: a general register, a timer, a memory byte (R30, R41, R70). -/
abbrev Byte := BitVec 8

/-- A 16-bit unsigned value: an opcode, `pc`, `I`, a stack entry (R33, R35, R39, R90). -/
abbrev Word := BitVec 16

/-- The 12-bit address field `NNN` of an opcode (R91). -/
abbrev Addr12 := BitVec 12

/-- The value of a `fault_info` record, 17 bits wide (R262, C13). -/
abbrev FaultInfo := BitVec 17

/-- The index of a general register, from the `X` or `Y` field (R30, R91). -/
abbrev RegIdx := Fin 16

/-- The index of a key, 0x0..0xF (R45). -/
abbrev KeyIdx := Fin 16

/-- A 4-bit unsigned count: the `N` field as rows of a sprite or of a scroll (R91, R92). -/
abbrev Count := Fin 16

/-- The 4-bit field that holds an index or a count. -/
abbrev Nibble := BitVec 4

end Sys2Proof
end

