-- ==== Sys2Proof/Config.lean ====
section
/-! DEFINITION. What is fixed when a core is built: the variant and its profile, the parameters the spec
leaves to a model (spec/00_scope.md R7, R10; spec/10_state.md R49 to R51), and the free values. -/

namespace Sys2Proof

/-- The target variants of R2. -/
inductive Variant where
  | chip8
  | schip
  | xochip
  deriving DecidableEq, Repr

/-- `EX9E`/`EXA1` with `V[X] > 0xF` (R176, parameter KEY_INDEX_POLICY). -/
inductive KeyIndexPolicy where
  | fault
  | lowNibble
  deriving DecidableEq, Repr

/-- What `FX1E` leaves in VF when it does not overflow (R221, parameter FX1E_VF_NO_OVF). -/
inductive Fx1eVfPolicy where
  | unchanged
  | zero
  deriving DecidableEq, Repr

namespace Variant

/-- `screen_width` in pixels (R7). -/
def screenWidth : Variant → Nat
  | chip8 => 64
  | schip => 128
  | xochip => 128

/-- `screen_height` in pixels (R7). -/
def screenHeight : Variant → Nat
  | chip8 => 32
  | schip => 64
  | xochip => 64

/-- `memory_capacity`, written CAP (R7, R70). -/
def cap : Variant → Nat
  | chip8 => 4096
  | schip => 4096
  | xochip => 65536

/-- `user_register_count` (R7; the assignment to variants is the spec's D2). -/
def userRegisterCount : Variant → Nat
  | chip8 => 0
  | schip => 8
  | xochip => 16

/-- `lores_display_wait` (R7; the values are the spec's D2). -/
def loresDisplayWait : Variant → Bool
  | chip8 => true
  | schip => true
  | xochip => false

/-- The variants of the "S/X" rows of R94: those with the SuperChip instructions. -/
def isExtended : Variant → Bool
  | chip8 => false
  | schip => true
  | xochip => true

end Variant

/-- The parameters of the step relation (R10, R51). None changes during a run (R3). -/
structure Config where
  variant : Variant
  keyIndexPolicy : KeyIndexPolicy
  fx1eVfNoOvf : Fx1eVfPolicy
  /-- FONT_LO, 80 bytes at 0x000 (R49). -/
  fontLo : List Byte
  /-- FONT_HI, 100 bytes at FONT_HI_BASE on SCHIP and XOCHIP (R50). -/
  fontHi : List Byte
  /-- FONT_HI_BASE (R50). -/
  fontHiBase : Word
  deriving DecidableEq, Repr

namespace Config

/-- The free value of `CXNN` (R144): the byte drawn at the n-th draw. Log 8: no value is known of it. -/
opaque rngByte : Nat → Byte

/-- RES_SCALE_HIRES, the resolution scale in high resolution: OPEN (R281, D23), log 14. -/
opaque resScaleHires : Variant → Rat

/-- DEFAULT_SCREEN_SCALE: OPEN and cosmetic (R7, D2), log 14. No rule of the core reads it. -/
opaque defaultScreenScale : Variant → Rat

/-- CYCLES_PER_FRAME, the host's bound on cycles between two ticks: OPEN (R275, D35), log 14. No rule of the core reads it. -/
opaque cyclesPerFrame : Nat

/-- The conventional low-resolution font: sixteen glyphs of five bytes, the table of R49. -/
def conventionalFontLo : List Byte :=
  [0xF0, 0x90, 0x90, 0x90, 0xF0] ++ [0x20, 0x60, 0x20, 0x20, 0x70] ++
  [0xF0, 0x10, 0xF0, 0x80, 0xF0] ++ [0xF0, 0x10, 0xF0, 0x10, 0xF0] ++
  [0x90, 0x90, 0xF0, 0x10, 0x10] ++ [0xF0, 0x80, 0xF0, 0x10, 0xF0] ++
  [0xF0, 0x80, 0xF0, 0x90, 0xF0] ++ [0xF0, 0x10, 0x20, 0x40, 0x40] ++
  [0xF0, 0x90, 0xF0, 0x90, 0xF0] ++ [0xF0, 0x90, 0xF0, 0x10, 0xF0] ++
  [0xF0, 0x90, 0xF0, 0x90, 0x90] ++ [0xE0, 0x90, 0xE0, 0x90, 0xE0] ++
  [0xF0, 0x80, 0x80, 0x80, 0xF0] ++ [0xE0, 0x90, 0x90, 0x90, 0xE0] ++
  [0xF0, 0x80, 0xF0, 0x80, 0xF0] ++ [0xF0, 0x80, 0xF0, 0x80, 0x80]

/-- The conventional high-resolution digits: ten glyphs of ten bytes, the table of R50. -/
def conventionalFontHi : List Byte :=
  [0x3C, 0x7E, 0xE7, 0xC3, 0xC3, 0xC3, 0xC3, 0xE7, 0x7E, 0x3C] ++
  [0x18, 0x38, 0x58, 0x18, 0x18, 0x18, 0x18, 0x18, 0x18, 0x3C] ++
  [0x3E, 0x7F, 0xC3, 0x06, 0x0C, 0x18, 0x30, 0x60, 0xFF, 0xFF] ++
  [0x3C, 0x7E, 0xC3, 0x03, 0x0E, 0x0E, 0x03, 0xC3, 0x7E, 0x3C] ++
  [0x06, 0x0E, 0x1E, 0x36, 0x66, 0xC6, 0xFF, 0xFF, 0x06, 0x06] ++
  [0xFF, 0xFF, 0xC0, 0xC0, 0xFC, 0xFE, 0x03, 0xC3, 0x7E, 0x3C] ++
  [0x3E, 0x7C, 0xE0, 0xC0, 0xFC, 0xFE, 0xC3, 0xC3, 0x7E, 0x3C] ++
  [0xFF, 0xFF, 0x03, 0x06, 0x0C, 0x18, 0x30, 0x60, 0x60, 0x60] ++
  [0x3C, 0x7E, 0xC3, 0xC3, 0x7E, 0x7E, 0xC3, 0xC3, 0x7E, 0x3C] ++
  [0x3C, 0x7E, 0xC3, 0xC3, 0x7F, 0x3F, 0x03, 0x03, 0x3E, 0x7C]

/-- The spec's default parameters for one variant (R10). -/
def ofVariant (v : Variant) : Config where
  variant := v
  keyIndexPolicy := .fault
  fx1eVfNoOvf := .unchanged
  fontLo := conventionalFontLo
  fontHi := conventionalFontHi
  fontHiBase := 0x050

/-- The configuration of `State.reset` and of `decodeTableWord`. The spec names no default variant
(R10: "none; an argument"); DESIGN CHOICE XOCHIP, log 1. -/
def table : Config := ofVariant .xochip

/-- The number of bytes of memory (R70). -/
def cap (c : Config) : Nat := c.variant.cap

/-- The sizes the parameters must have: FONT_LO is 80 bytes, FONT_HI 100 bytes, and the high font lies
between the low font and the ROM (R10, R49, R50, D6; log 11). -/
abbrev Wf (c : Config) : Prop :=
  c.fontLo.length = 80 ∧ c.fontHi.length = 100 ∧
    0x050 ≤ c.fontHiBase.toNat ∧ c.fontHiBase.toNat + 100 ≤ 0x200

/-- What a memory address holds at construction, before any ROM is loaded (R53, R71): the low font, the
high font on SCHIP and XOCHIP, and 0 everywhere else. This is what an unlisted address reads as. -/
def resetByte (c : Config) (a : Nat) : Byte :=
  if a < 80 then c.fontLo.getD a 0
  else if c.variant.isExtended ∧ c.fontHiBase.toNat ≤ a ∧ a < c.fontHiBase.toNat + 100 then
    c.fontHi.getD (a - c.fontHiBase.toNat) 0
  else 0

end Config

end Sys2Proof
end

