-- ==== Sys2Proof/Syntax.lean ====
section
/-! DEFINITION. The 44 instructions of spec/opcode_table.json, one constructor a row, in the table's order
(spec/30_encoding.md R94). Operands are typed as R92 gives them. -/

namespace Sys2Proof

/-- The instructions. `x`, `y` name registers, `nn` is an 8-bit immediate, `nnn` a 12-bit address, `n` a count. -/
inductive Instr where
  /-- `00E0` CLS (R190). -/
  | cls
  /-- `00EE` RET (R162). -/
  | ret
  /-- `00CN` SCD N (R200), SCHIP and XOCHIP. -/
  | scd (n : Count)
  /-- `00DN` SCU N (R201), SCHIP and XOCHIP. -/
  | scu (n : Count)
  /-- `00FB` SCR (R202), SCHIP and XOCHIP. -/
  | scr
  /-- `00FC` SCL (R203), SCHIP and XOCHIP. -/
  | scl
  /-- `00FE` LOW (R197), SCHIP and XOCHIP. -/
  | low
  /-- `00FF` HIGH (R198), SCHIP and XOCHIP. -/
  | high
  /-- `0NNN` SYS NNN, the legacy no-op (R166). -/
  | sys (nnn : Addr12)
  /-- `1NNN` JP NNN (R160). -/
  | jp (nnn : Addr12)
  /-- `2NNN` CALL NNN (R161). -/
  | call (nnn : Addr12)
  /-- `3XNN` SE VX, NN (R170). -/
  | seImm (x : RegIdx) (nn : Byte)
  /-- `4XNN` SNE VX, NN (R171). -/
  | sneImm (x : RegIdx) (nn : Byte)
  /-- `5XY0` SE VX, VY (R172). -/
  | seReg (x y : RegIdx)
  /-- `6XNN` LD VX, NN (R133). -/
  | ldImm (x : RegIdx) (nn : Byte)
  /-- `7XNN` ADD VX, NN (R134). -/
  | addImm (x : RegIdx) (nn : Byte)
  /-- `8XY0` LD VX, VY (R135). -/
  | ldReg (x y : RegIdx)
  /-- `8XY1` OR VX, VY (R136). -/
  | orReg (x y : RegIdx)
  /-- `8XY2` AND VX, VY (R137). -/
  | andReg (x y : RegIdx)
  /-- `8XY3` XOR VX, VY (R138). -/
  | xorReg (x y : RegIdx)
  /-- `8XY4` ADD VX, VY (R139). -/
  | addReg (x y : RegIdx)
  /-- `8XY5` SUB VX, VY (R140). -/
  | sub (x y : RegIdx)
  /-- `8XY6` SHR VX, VY (R141). -/
  | shr (x y : RegIdx)
  /-- `8XY7` SUBN VX, VY (R142). -/
  | subn (x y : RegIdx)
  /-- `8XYE` SHL VX, VY (R143). -/
  | shl (x y : RegIdx)
  /-- `9XY0` SNE VX, VY (R173). -/
  | sneReg (x y : RegIdx)
  /-- `ANNN` LD I, NNN (R220). -/
  | ldI (nnn : Addr12)
  /-- `BNNN` JP V0, NNN; on SCHIP `BXNN` JP VX, NNN, where X is `NNN[11:8]` (R165). -/
  | jpOffset (nnn : Addr12)
  /-- `CXNN` RND VX, NN (R144). -/
  | rnd (x : RegIdx) (nn : Byte)
  /-- `DXYN` DRW VX, VY, N (R193). -/
  | drw (x y : RegIdx) (n : Count)
  /-- `EX9E` SKP VX (R174). -/
  | skp (x : RegIdx)
  /-- `EXA1` SKNP VX (R175). -/
  | sknp (x : RegIdx)
  /-- `FX07` LD VX, DT (R250). -/
  | ldVxDt (x : RegIdx)
  /-- `FX0A` LD VX, K (R180). -/
  | ldVxK (x : RegIdx)
  /-- `FX15` LD DT, VX (R251). -/
  | ldDtVx (x : RegIdx)
  /-- `FX18` LD ST, VX (R252). -/
  | ldStVx (x : RegIdx)
  /-- `FX1E` ADD I, VX (R221). -/
  | addI (x : RegIdx)
  /-- `FX29` LD F, VX (R223). -/
  | ldF (x : RegIdx)
  /-- `FX30` LD HF, VX (R225), SCHIP and XOCHIP. -/
  | ldHf (x : RegIdx)
  /-- `FX33` LD B, VX (R230). -/
  | ldB (x : RegIdx)
  /-- `FX55` LD [I], VX (R231). -/
  | storeRegs (x : RegIdx)
  /-- `FX65` LD VX, [I] (R233). -/
  | loadRegs (x : RegIdx)
  /-- `FX75` LD R, VX (R236). -/
  | storeUser (x : RegIdx)
  /-- `FX85` LD VX, R (R237). -/
  | loadUser (x : RegIdx)
  deriving DecidableEq, Repr

end Sys2Proof
end

