-- ==== Sys2Proof/WellFormed.lean ====
section
/-! DEFINITION. Which instructions a variant has (spec/30_encoding.md R94, R95, R99). The operands' ranges
are in their types; what is checked here is what the types cannot say. -/

namespace Sys2Proof

/-- The `NNN` of the family-0 words that decode to an instruction of their own on every variant (R95). -/
def isFamily0All (nnn : Addr12) : Bool :=
  nnn == 0x0E0 || nnn == 0x0EE

/-- The `NNN` of the family-0 words that decode to an instruction of their own on SCHIP and XOCHIP (R95):
`00CN`, `00DN`, `00FB`, `00FC`, `00FE`, `00FF`. -/
def isFamily0Extended (nnn : Addr12) : Bool :=
  nnn &&& 0xFF0 == 0x0C0 || nnn &&& 0xFF0 == 0x0D0 ||
    nnn == 0x0FB || nnn == 0x0FC || nnn == 0x0FE || nnn == 0x0FF

/-- The `NNN` that the `0NNN` no-op has on a variant: every family-0 word no other row decodes (R95, R96). -/
def isSysAddr (v : Variant) (nnn : Addr12) : Bool :=
  !(isFamily0All nnn || (v.isExtended && isFamily0Extended nnn))

/-- The instructions of the "S/X" rows of R94: absent on CHIP8. -/
def Instr.isExtended : Instr → Bool
  | .scd _ | .scu _ | .scr | .scl | .low | .high | .ldHf _ => true
  | .cls | .ret | .sys _ | .jp _ | .call _ | .seImm _ _ | .sneImm _ _ | .seReg _ _ | .ldImm _ _
  | .addImm _ _ | .ldReg _ _ | .orReg _ _ | .andReg _ _ | .xorReg _ _ | .addReg _ _ | .sub _ _
  | .shr _ _ | .subn _ _ | .shl _ _ | .sneReg _ _ | .ldI _ | .jpOffset _ | .rnd _ _ | .drw _ _ _
  | .skp _ | .sknp _ | .ldVxDt _ | .ldVxK _ | .ldDtVx _ | .ldStVx _ | .addI _ | .ldF _ | .ldB _
  | .storeRegs _ | .loadRegs _ | .storeUser _ | .loadUser _ => false

/-- The check on the one instruction whose words other rows take first (R95, R96). -/
def Instr.sysAddrOk (v : Variant) : Instr → Bool
  | .sys nnn => isSysAddr v nnn
  | .cls | .ret | .scd _ | .scu _ | .scr | .scl | .low | .high | .jp _ | .call _ | .seImm _ _
  | .sneImm _ _ | .seReg _ _ | .ldImm _ _ | .addImm _ _ | .ldReg _ _ | .orReg _ _ | .andReg _ _
  | .xorReg _ _ | .addReg _ _ | .sub _ _ | .shr _ _ | .subn _ _ | .shl _ _ | .sneReg _ _ | .ldI _
  | .jpOffset _ | .rnd _ _ | .drw _ _ _ | .skp _ | .sknp _ | .ldVxDt _ | .ldVxK _ | .ldDtVx _
  | .ldStVx _ | .addI _ | .ldF _ | .ldHf _ | .ldB _ | .storeRegs _ | .loadRegs _ | .storeUser _
  | .loadUser _ => true

/-- An instruction is well formed on a variant when the variant has it and a word of its row decodes to it. -/
def Instr.wf (v : Variant) (i : Instr) : Bool :=
  (v.isExtended || !i.isExtended) && i.sysAddrOk v

end Sys2Proof
end

