-- ==== Sys2Proof/Decode.lean ====
section
/-! DEFINITION. Decoding and encoding (spec/30_encoding.md R90 to R99). The decoder is total on any bytes
and rejects by name; the encoder is written from the same patterns. -/

namespace Sys2Proof

/-- The six classes of illegal words, the rows of R99's table. -/
inductive Illegal where
  /-- `5XYN`, `N ≠ 0`. -/
  | fiveXYN
  /-- `9XYN`, `N ≠ 0`. -/
  | nineXYN
  /-- `8XYN`, `N` in 8, 9, A, B, C, D, F. -/
  | eightXYN
  /-- `EXNN`, `NN` not 9E or A1. -/
  | eXNN
  /-- `FXNN`, `NN` of no instruction of any variant. -/
  | fXNN
  /-- `FX30` on CHIP8. -/
  | fx30OnChip8
  deriving DecidableEq, Repr

/-- Why a list of bytes does not decode. -/
inductive DecodeError where
  /-- Fewer than two bytes: "A decoder always consumes 2 bytes" (R90). -/
  | truncated
  /-- An illegal word (R98, R99), with its class. -/
  | illegal (why : Illegal) (op : Word)
  deriving DecidableEq, Repr

/-! ### Fields (R91) -/

/-- `F = op[15:12]`. -/
def fieldF (op : Word) : Nibble := op.extractLsb' 12 4

/-- `X = op[11:8]`, as the bits of the field. -/
def bitsX (op : Word) : Nibble := op.extractLsb' 8 4

/-- `Y = op[7:4]`, as the bits of the field. -/
def bitsY (op : Word) : Nibble := op.extractLsb' 4 4

/-- `N = op[3:0]`, as the bits of the field. -/
def bitsN (op : Word) : Nibble := op.extractLsb' 0 4

/-- `NN = op[7:0]`. -/
def fieldNN (op : Word) : Byte := op.extractLsb' 0 8

/-- `NNN = op[11:0]`. -/
def fieldNNN (op : Word) : Addr12 := op.extractLsb' 0 12

/-- A 4-bit field read as an index or a count. -/
def nibbleToFin (b : Nibble) : Fin 16 := ⟨b.toNat, b.isLt⟩

/-- The 4-bit field that holds an index or a count. -/
def finToNibble (k : Fin 16) : Nibble := BitVec.ofNat 4 k.val

/-- The register index in the `X` field. -/
def fieldX (op : Word) : RegIdx := nibbleToFin (bitsX op)

/-- The register index in the `Y` field. -/
def fieldY (op : Word) : RegIdx := nibbleToFin (bitsY op)

/-- The count in the `N` field. -/
def fieldN (op : Word) : Count := nibbleToFin (bitsN op)

/-! ### The decoder -/

/-- Family 0 on SCHIP and XOCHIP after `00E0` and `00EE` (R95). -/
def decodeFamily0Extended (op : Word) : Instr :=
  if op &&& 0xFFF0 = 0x00C0 then .scd (fieldN op)
  else if op &&& 0xFFF0 = 0x00D0 then .scu (fieldN op)
  else if op = 0x00FB then .scr
  else if op = 0x00FC then .scl
  else if op = 0x00FE then .low
  else if op = 0x00FF then .high
  else .sys (fieldNNN op)

/-- Family 0, in the order of R95: every other word is the `0NNN` no-op (R96). -/
def decodeFamily0 (v : Variant) (op : Word) : Instr :=
  if op = 0x00E0 then .cls
  else if op = 0x00EE then .ret
  else if v.isExtended then decodeFamily0Extended op
  else .sys (fieldNNN op)

/-- Family 8 decodes on `N` (R97). -/
def decodeFamily8 (op : Word) : Except Illegal Instr :=
  if bitsN op = 0x0 then .ok (.ldReg (fieldX op) (fieldY op))
  else if bitsN op = 0x1 then .ok (.orReg (fieldX op) (fieldY op))
  else if bitsN op = 0x2 then .ok (.andReg (fieldX op) (fieldY op))
  else if bitsN op = 0x3 then .ok (.xorReg (fieldX op) (fieldY op))
  else if bitsN op = 0x4 then .ok (.addReg (fieldX op) (fieldY op))
  else if bitsN op = 0x5 then .ok (.sub (fieldX op) (fieldY op))
  else if bitsN op = 0x6 then .ok (.shr (fieldX op) (fieldY op))
  else if bitsN op = 0x7 then .ok (.subn (fieldX op) (fieldY op))
  else if bitsN op = 0xE then .ok (.shl (fieldX op) (fieldY op))
  else .error .eightXYN

/-- Family E decodes on `NN` (R97). -/
def decodeFamilyE (op : Word) : Except Illegal Instr :=
  if fieldNN op = 0x9E then .ok (.skp (fieldX op))
  else if fieldNN op = 0xA1 then .ok (.sknp (fieldX op))
  else .error .eXNN

/-- Family F decodes on `NN`; `FX30` is illegal on CHIP8 (R97, R99). -/
def decodeFamilyF (v : Variant) (op : Word) : Except Illegal Instr :=
  if fieldNN op = 0x07 then .ok (.ldVxDt (fieldX op))
  else if fieldNN op = 0x0A then .ok (.ldVxK (fieldX op))
  else if fieldNN op = 0x15 then .ok (.ldDtVx (fieldX op))
  else if fieldNN op = 0x18 then .ok (.ldStVx (fieldX op))
  else if fieldNN op = 0x1E then .ok (.addI (fieldX op))
  else if fieldNN op = 0x29 then .ok (.ldF (fieldX op))
  else if fieldNN op = 0x30 then
    if v.isExtended then .ok (.ldHf (fieldX op)) else .error .fx30OnChip8
  else if fieldNN op = 0x33 then .ok (.ldB (fieldX op))
  else if fieldNN op = 0x55 then .ok (.storeRegs (fieldX op))
  else if fieldNN op = 0x65 then .ok (.loadRegs (fieldX op))
  else if fieldNN op = 0x75 then .ok (.storeUser (fieldX op))
  else if fieldNN op = 0x85 then .ok (.loadUser (fieldX op))
  else .error .fXNN

/-- `Decode(variant, op)` of R93: dispatch on the family, then R94's rows. The last arm is family 0xF,
the one value of the 4-bit field that is left. -/
def decodeWord (v : Variant) (op : Word) : Except Illegal Instr :=
  match (fieldF op).toNat with
  | 0x0 => .ok (decodeFamily0 v op)
  | 0x1 => .ok (.jp (fieldNNN op))
  | 0x2 => .ok (.call (fieldNNN op))
  | 0x3 => .ok (.seImm (fieldX op) (fieldNN op))
  | 0x4 => .ok (.sneImm (fieldX op) (fieldNN op))
  | 0x5 => if bitsN op = 0 then .ok (.seReg (fieldX op) (fieldY op)) else .error .fiveXYN
  | 0x6 => .ok (.ldImm (fieldX op) (fieldNN op))
  | 0x7 => .ok (.addImm (fieldX op) (fieldNN op))
  | 0x8 => decodeFamily8 op
  | 0x9 => if bitsN op = 0 then .ok (.sneReg (fieldX op) (fieldY op)) else .error .nineXYN
  | 0xA => .ok (.ldI (fieldNNN op))
  | 0xB => .ok (.jpOffset (fieldNNN op))
  | 0xC => .ok (.rnd (fieldX op) (fieldNN op))
  | 0xD => .ok (.drw (fieldX op) (fieldY op) (fieldN op))
  | 0xE => decodeFamilyE op
  | _ => decodeFamilyF v op

/-- A big-endian opcode: the byte at the lower address in bits 15..8 (R73, R112). -/
def opcodeOfBytes (hi lo : Byte) : Word := hi ++ lo

/-- The two bytes of an opcode, the one at the lower address first (R73). -/
def bytesOfOpcode (op : Word) : List Byte := [op.extractLsb' 8 8, op.extractLsb' 0 8]

/-- Decode the first instruction of a list of bytes and give the rest of the list (R90). -/
def decode (v : Variant) : List Byte → Except DecodeError (Instr × List Byte)
  | hi :: lo :: rest =>
    match decodeWord v (opcodeOfBytes hi lo) with
    | .ok i => .ok (i, rest)
    | .error why => .error (.illegal why (opcodeOfBytes hi lo))
  | [_] => .error .truncated
  | [] => .error .truncated

/-! ### The encoder -/

/-- The form `F X Y N`: four fields of four bits, `F` the highest (R91). -/
def packXYN (f : Nibble) (x y : Fin 16) (n : Nibble) : Word :=
  BitVec.ofNat 16 (f.toNat * 0x1000 + x.val * 0x100 + y.val * 0x10 + n.toNat)

/-- The form `F X NN`. -/
def packXNN (f : Nibble) (x : Fin 16) (nn : Byte) : Word :=
  BitVec.ofNat 16 (f.toNat * 0x1000 + x.val * 0x100 + nn.toNat)

/-- The form `F NNN`. -/
def packNNN (f : Nibble) (nnn : Addr12) : Word := BitVec.ofNat 16 (f.toNat * 0x1000 + nnn.toNat)

/-- The word of an instruction, by the patterns of R94. -/
def encodeWord : Instr → Word
  | .cls => 0x00E0
  | .ret => 0x00EE
  | .scd n => packXYN 0x0 0x0 0xC (finToNibble n)
  | .scu n => packXYN 0x0 0x0 0xD (finToNibble n)
  | .scr => 0x00FB
  | .scl => 0x00FC
  | .low => 0x00FE
  | .high => 0x00FF
  | .sys nnn => packNNN 0x0 nnn
  | .jp nnn => packNNN 0x1 nnn
  | .call nnn => packNNN 0x2 nnn
  | .seImm x nn => packXNN 0x3 x nn
  | .sneImm x nn => packXNN 0x4 x nn
  | .seReg x y => packXYN 0x5 x y 0x0
  | .ldImm x nn => packXNN 0x6 x nn
  | .addImm x nn => packXNN 0x7 x nn
  | .ldReg x y => packXYN 0x8 x y 0x0
  | .orReg x y => packXYN 0x8 x y 0x1
  | .andReg x y => packXYN 0x8 x y 0x2
  | .xorReg x y => packXYN 0x8 x y 0x3
  | .addReg x y => packXYN 0x8 x y 0x4
  | .sub x y => packXYN 0x8 x y 0x5
  | .shr x y => packXYN 0x8 x y 0x6
  | .subn x y => packXYN 0x8 x y 0x7
  | .shl x y => packXYN 0x8 x y 0xE
  | .sneReg x y => packXYN 0x9 x y 0x0
  | .ldI nnn => packNNN 0xA nnn
  | .jpOffset nnn => packNNN 0xB nnn
  | .rnd x nn => packXNN 0xC x nn
  | .drw x y n => packXYN 0xD x y (finToNibble n)
  | .skp x => packXNN 0xE x 0x9E
  | .sknp x => packXNN 0xE x 0xA1
  | .ldVxDt x => packXNN 0xF x 0x07
  | .ldVxK x => packXNN 0xF x 0x0A
  | .ldDtVx x => packXNN 0xF x 0x15
  | .ldStVx x => packXNN 0xF x 0x18
  | .addI x => packXNN 0xF x 0x1E
  | .ldF x => packXNN 0xF x 0x29
  | .ldHf x => packXNN 0xF x 0x30
  | .ldB x => packXNN 0xF x 0x33
  | .storeRegs x => packXNN 0xF x 0x55
  | .loadRegs x => packXNN 0xF x 0x65
  | .storeUser x => packXNN 0xF x 0x75
  | .loadUser x => packXNN 0xF x 0x85

/-- The bytes of an instruction, in memory order (R73, R90). -/
def encode (i : Instr) : List Byte := bytesOfOpcode (encodeWord i)

/-! ### The opcode table (R94, spec/opcode_table.json) -/

/-- One row of the opcode table: a word `w` matches when `w & mask = pattern` on a variant that has the row. -/
structure OpRow where
  mask : Word
  pattern : Word
  /-- The row is for SCHIP and XOCHIP only. -/
  extendedOnly : Bool
  deriving DecidableEq, Repr

/-- Whether a word matches a row on a variant. -/
def OpRow.covers (r : OpRow) (v : Variant) (op : Word) : Bool :=
  (v.isExtended || !r.extendedOnly) && op &&& r.mask == r.pattern

/-- The row of an instruction: its mask, its fixed bits and its variants, as spec/opcode_table.json gives them. -/
def Instr.row : Instr → OpRow
  | .cls => ⟨0xFFFF, 0x00E0, false⟩
  | .ret => ⟨0xFFFF, 0x00EE, false⟩
  | .scd _ => ⟨0xFFF0, 0x00C0, true⟩
  | .scu _ => ⟨0xFFF0, 0x00D0, true⟩
  | .scr => ⟨0xFFFF, 0x00FB, true⟩
  | .scl => ⟨0xFFFF, 0x00FC, true⟩
  | .low => ⟨0xFFFF, 0x00FE, true⟩
  | .high => ⟨0xFFFF, 0x00FF, true⟩
  | .sys _ => ⟨0xF000, 0x0000, false⟩
  | .jp _ => ⟨0xF000, 0x1000, false⟩
  | .call _ => ⟨0xF000, 0x2000, false⟩
  | .seImm _ _ => ⟨0xF000, 0x3000, false⟩
  | .sneImm _ _ => ⟨0xF000, 0x4000, false⟩
  | .seReg _ _ => ⟨0xF00F, 0x5000, false⟩
  | .ldImm _ _ => ⟨0xF000, 0x6000, false⟩
  | .addImm _ _ => ⟨0xF000, 0x7000, false⟩
  | .ldReg _ _ => ⟨0xF00F, 0x8000, false⟩
  | .orReg _ _ => ⟨0xF00F, 0x8001, false⟩
  | .andReg _ _ => ⟨0xF00F, 0x8002, false⟩
  | .xorReg _ _ => ⟨0xF00F, 0x8003, false⟩
  | .addReg _ _ => ⟨0xF00F, 0x8004, false⟩
  | .sub _ _ => ⟨0xF00F, 0x8005, false⟩
  | .shr _ _ => ⟨0xF00F, 0x8006, false⟩
  | .subn _ _ => ⟨0xF00F, 0x8007, false⟩
  | .shl _ _ => ⟨0xF00F, 0x800E, false⟩
  | .sneReg _ _ => ⟨0xF00F, 0x9000, false⟩
  | .ldI _ => ⟨0xF000, 0xA000, false⟩
  | .jpOffset _ => ⟨0xF000, 0xB000, false⟩
  | .rnd _ _ => ⟨0xF000, 0xC000, false⟩
  | .drw _ _ _ => ⟨0xF000, 0xD000, false⟩
  | .skp _ => ⟨0xF0FF, 0xE09E, false⟩
  | .sknp _ => ⟨0xF0FF, 0xE0A1, false⟩
  | .ldVxDt _ => ⟨0xF0FF, 0xF007, false⟩
  | .ldVxK _ => ⟨0xF0FF, 0xF00A, false⟩
  | .ldDtVx _ => ⟨0xF0FF, 0xF015, false⟩
  | .ldStVx _ => ⟨0xF0FF, 0xF018, false⟩
  | .addI _ => ⟨0xF0FF, 0xF01E, false⟩
  | .ldF _ => ⟨0xF0FF, 0xF029, false⟩
  | .ldHf _ => ⟨0xF0FF, 0xF030, true⟩
  | .ldB _ => ⟨0xF0FF, 0xF033, false⟩
  | .storeRegs _ => ⟨0xF0FF, 0xF055, false⟩
  | .loadRegs _ => ⟨0xF0FF, 0xF065, false⟩
  | .storeUser _ => ⟨0xF0FF, 0xF075, false⟩
  | .loadUser _ => ⟨0xF0FF, 0xF085, false⟩

/-- The table in decode order: the first row that covers a word wins (R93, R94). -/
def opcodeTable : List OpRow :=
  [Instr.cls, .ret, .scd 0, .scu 0, .scr, .scl, .low, .high, .sys 0].map Instr.row ++
  [Instr.jp 0, .call 0, .seImm 0 0, .sneImm 0 0, .seReg 0 0, .ldImm 0 0, .addImm 0 0].map Instr.row ++
  [Instr.ldReg 0 0, .orReg 0 0, .andReg 0 0, .xorReg 0 0, .addReg 0 0, .sub 0 0, .shr 0 0,
    .subn 0 0, .shl 0 0, .sneReg 0 0].map Instr.row ++
  [Instr.ldI 0, .jpOffset 0, .rnd 0 0, .drw 0 0 0, .skp 0, .sknp 0].map Instr.row ++
  [Instr.ldVxDt 0, .ldVxK 0, .ldDtVx 0, .ldStVx 0, .addI 0, .ldF 0, .ldHf 0, .ldB 0,
    .storeRegs 0, .loadRegs 0, .storeUser 0, .loadUser 0].map Instr.row

/-! ### The host's question -/

/-- The instruction the decoder reads from an instruction of `nbits` bits whose bits are `w`, numbered as
spec/opcode_table.json numbers them. The word's two bytes are laid out big-endian (R73) and given to
`decode` of the variant of `State.reset` (log 1). -/
def decodeTableWord (nbits w : Nat) : Option Instr :=
  match decode Config.table.variant (bytesOfOpcode (BitVec.ofNat 16 (w % 2 ^ nbits))) with
  | .ok (i, _) => some i
  | .error _ => none

end Sys2Proof
end

