-- ==== Sys2Proof/Machine/State.lean ====
section
/-! DEFINITION. The state of the core (spec/10_state.md), as plain data, with the fault reasons of
spec/60_exceptions.md R261, the host's events of R269, and the state after construction (R53, R301). -/

namespace Sys2Proof.Machine

/-- The fault reasons of R261. A fault is recorded in the state (`State.fault`) as R262 and R277 describe its
entry, so the faulting cycle answers a NEXT state; no meaning and no step answers `Host.Outcome.fault` with
one of these (log 5). Each is safe: the spec names the reason and what it records. -/
inductive Fault where
  /-- Code 1. Raised by the cycle's decode, and by `exec` of `FX30` on CHIP8, where the word is illegal
  (R98, R99, R113). Safe. -/
  | illegalOpcode
  /-- Code 2. Raised by `2NNN` with `sp = 16` (R161). Safe. -/
  | stackOverflow
  /-- Code 3. Raised by `00EE` with `sp = 0` (R162). Safe. -/
  | stackUnderflow
  /-- Code 4. Raised by the cycle's fetch check (R111). Safe. -/
  | pcOutOfRange
  /-- Code 5. Raised by `DXYN`, `FX33`, `FX55`, `FX65` on an address at or above CAP (R76, R77). Safe. -/
  | memOutOfRange
  /-- Code 6. Raised by `FX33`, `FX55` on a written address below 0x200 (R77). Safe. -/
  | protectedWrite
  /-- Code 7. Raised by `EX9E`, `EXA1` with `V[X] > 0xF` under the policy `Fault` (R176). Safe. -/
  | keyIndexOutOfRange
  deriving DecidableEq, Repr

/-- The cause code of R261. -/
def Fault.code : Fault → Nat
  | .illegalOpcode => 1
  | .stackOverflow => 2
  | .stackUnderflow => 3
  | .pcOutOfRange => 4
  | .memOutOfRange => 5
  | .protectedWrite => 6
  | .keyIndexOutOfRange => 7

/-- Why a step has no next state. -/
inductive Refusal where
  /-- An instruction whose meaning is not written yet; raised by `exec`'s arms only. Safe. -/
  | notModelled (mnemonic : String)
  /-- A ROM longer than `CAP - 0x200`: a configuration error, "the core is not built and no cycle runs"
  (R87, R266). Raised by the host event Load. Safe: no such core exists. -/
  | romTooLarge
  /-- A Load after the first cycle or a second Load: "allowed only after construction and before the first
  cycle; it is applied at most once" (R87). Raised by the host event Load. Safe: the spec forbids it and
  gives it no effect. -/
  | loadNotAllowed
  deriving DecidableEq, Repr

/-- The key-wait state machine of `FX0A` (R46, C7). -/
inductive KeyWait where
  | idle
  | armed
  | captured (k : KeyIdx)
  deriving DecidableEq, Repr

/-- How a cycle ends, as reported to the host (R110). -/
inductive CycleOutcome where
  | stepped
  | waitingKey
  | waitingDisplay
  | faulted
  deriving DecidableEq, Repr

/-- The host's inputs to the core (R269). Each is one atomic transition (R268). -/
inductive HostEvent where
  | cycle
  | tick
  | keyEvent (k : KeyIdx) (pressed : Bool)
  | displayAck
  | load (rom : List Byte)
  deriving DecidableEq, Repr

/-- Memory: the bytes that differ from `Config.resetByte`, by rising address (log 11). -/
abbrev Memory := List Host.Cell

/-- The framebuffer: the set cells `(y, x)` in row-major order (R42, log 9). -/
abbrev Gfx := List (Nat × Nat)

/-- The state of the core. -/
structure State where
  /-- The parameters fixed at construction (R51, log 1). -/
  cfg : Config
  /-- The general registers `V[0..15]` (R30). -/
  v : Vector Byte 16
  /-- The address register `I` (R33). -/
  i : Word
  /-- The program counter (R35). -/
  pc : Word
  /-- The stack pointer, the number of live entries (R39). -/
  sp : Fin 17
  /-- The call stack (R39). -/
  stack : Vector Word 16
  /-- The delay timer DT (R41). -/
  dt : Byte
  /-- The sound timer ST (R41). -/
  st : Byte
  /-- The framebuffer (R42). -/
  gfx : Gfx
  /-- `key_state` (R45). -/
  keyState : Vector Bool 16
  /-- `key_wait` (R46). -/
  keyWait : KeyWait
  /-- `draw_flag` (R47). -/
  drawFlag : Bool
  /-- `hires_flag` (R47). -/
  hiresFlag : Bool
  /-- `display_wait` (R47, R117). -/
  displayWait : Bool
  /-- `user_regs`, of which the first `user_register_count` exist (R48, log 10). -/
  userRegs : Vector Byte 16
  /-- `fault` (R47, R262). -/
  fault : Option Fault
  /-- `fault_pc` (R262). -/
  faultPc : Word
  /-- `fault_info` (R262, C13). -/
  faultInfo : FaultInfo
  /-- Memory (R70). -/
  mem : Memory
  /-- The last cycle outcome (R110, R280); none before the first cycle (log 12). -/
  lastOutcome : Option CycleOutcome
  /-- Whether Load has been applied (R87, log 7). -/
  romLoaded : Bool
  /-- The MODEL's own: how many bytes `CXNN` has drawn (R144, log 8). -/
  rngDraws : Nat
  /-- The MODEL's own: the host's schedule still to come (R275, log 6). -/
  hostEvents : List HostEvent
  deriving DecidableEq, Repr

/-- Construction of a core (R53, R301): every piece of state at the value R53 gives. -/
def State.construct (c : Config) : State where
  cfg := c
  v := Vector.replicate 16 0
  i := 0
  pc := 0x200
  sp := 0
  stack := Vector.replicate 16 0
  dt := 0
  st := 0
  gfx := []
  keyState := Vector.replicate 16 false
  keyWait := .idle
  drawFlag := false
  hiresFlag := false
  displayWait := false
  userRegs := Vector.replicate 16 0
  fault := none
  faultPc := 0
  faultInfo := 0
  mem := []
  lastOutcome := none
  romLoaded := false
  rngDraws := 0
  hostEvents := []

/-- The machine right after reset: the construction state of the configuration of log 1. -/
def State.reset : State := State.construct Config.table

end Sys2Proof.Machine
end

