-- ==== Sys2Proof/Machine/Ops.lean ====
section
/-! DEFINITION. The named operations over the state: one update per field, registers, memory and its access
checks (spec/20_memory.md), the framebuffer (spec/10_state.md R42 to R44), the program counter
(spec/40_cycle.md R114), taking a fault (spec/60_exceptions.md R262, R277), and the fetch (R112). -/

namespace Sys2Proof.Machine

/-- The answer of a meaning. -/
abbrev Result := Host.Outcome State Fault Refusal

/-! ### One update per field -/

/-- `s` with `v` replaced. -/
def State.withV (s : State) (a : Vector Byte 16) : State := { s with v := a }

/-- `s` with `i` replaced. -/
def State.withI (s : State) (a : Word) : State := { s with i := a }

/-- `s` with `pc` replaced. -/
def State.withPc (s : State) (a : Word) : State := { s with pc := a }

/-- `s` with `sp` replaced. -/
def State.withSp (s : State) (a : Fin 17) : State := { s with sp := a }

/-- `s` with `stack` replaced. -/
def State.withStack (s : State) (a : Vector Word 16) : State := { s with stack := a }

/-- `s` with `dt` replaced. -/
def State.withDt (s : State) (a : Byte) : State := { s with dt := a }

/-- `s` with `st` replaced. -/
def State.withSt (s : State) (a : Byte) : State := { s with st := a }

/-- `s` with `gfx` replaced. -/
def State.withGfx (s : State) (a : Gfx) : State := { s with gfx := a }

/-- `s` with `keyState` replaced. -/
def State.withKeyState (s : State) (a : Vector Bool 16) : State := { s with keyState := a }

/-- `s` with `keyWait` replaced. -/
def State.withKeyWait (s : State) (a : KeyWait) : State := { s with keyWait := a }

/-- `s` with `drawFlag` replaced. -/
def State.withDrawFlag (s : State) (a : Bool) : State := { s with drawFlag := a }

/-- `s` with `hiresFlag` replaced. -/
def State.withHiresFlag (s : State) (a : Bool) : State := { s with hiresFlag := a }

/-- `s` with `displayWait` replaced. -/
def State.withDisplayWait (s : State) (a : Bool) : State := { s with displayWait := a }

/-- `s` with `userRegs` replaced. -/
def State.withUserRegs (s : State) (a : Vector Byte 16) : State := { s with userRegs := a }

/-- `s` with `fault` replaced. -/
def State.withFault (s : State) (a : Option Fault) : State := { s with fault := a }

/-- `s` with `faultPc` replaced. -/
def State.withFaultPc (s : State) (a : Word) : State := { s with faultPc := a }

/-- `s` with `faultInfo` replaced. -/
def State.withFaultInfo (s : State) (a : FaultInfo) : State := { s with faultInfo := a }

/-- `s` with `mem` replaced. -/
def State.withMem (s : State) (a : Memory) : State := { s with mem := a }

/-- `s` with `lastOutcome` replaced. -/
def State.withLastOutcome (s : State) (a : Option CycleOutcome) : State := { s with lastOutcome := a }

/-- `s` with `romLoaded` replaced. -/
def State.withRomLoaded (s : State) (a : Bool) : State := { s with romLoaded := a }

/-- `s` with `rngDraws` replaced. -/
def State.withRngDraws (s : State) (a : Nat) : State := { s with rngDraws := a }

/-- `s` with `hostEvents` replaced. -/
def State.withHostEvents (s : State) (a : List HostEvent) : State := { s with hostEvents := a }

/-! ### General registers (R30) -/

/-- `V[r]`. -/
def State.reg (s : State) (r : RegIdx) : Byte := s.v[r.val]

/-- `V[r] <- b`. -/
def State.setReg (s : State) (r : RegIdx) (b : Byte) : State := s.withV (s.v.set r.val b)

/-- The index of `VF`, the flag register (R31). -/
def flagReg : RegIdx := 15

/-- Write a flag to `VF` (R31). -/
def State.setFlag (s : State) (b : Byte) : State := s.setReg flagReg b

/-- Write the result, then the flag: steps (3) and (4) of R131, so `VF` holds the flag when `X = 0xF`. -/
def State.setRegFlag (s : State) (x : RegIdx) (result flag : Byte) : State :=
  (s.setReg x result).setFlag flag

/-- `V[0..x]` as bytes, the lowest register first (R231, R236). -/
def State.regsUpTo (s : State) (x : RegIdx) : List Byte := s.v.toList.take (x.val + 1)

/-- `V[k] <- f k` for every `k` in `0..x`, the others unchanged (R233, R237). -/
def State.setRegsUpTo (s : State) (x : RegIdx) (f : RegIdx → Byte) : State :=
  s.withV (Vector.ofFn fun k => if k ≤ x then f k else s.v[k.val])

/-- `user_regs[k]` (R48). -/
def State.userReg (s : State) (k : RegIdx) : Byte := s.userRegs[k.val]

/-- `user_regs[k] <- f k` for every `k` in `0..x`, the others unchanged (R236). -/
def State.setUserRegsUpTo (s : State) (x : RegIdx) (f : RegIdx → Byte) : State :=
  s.withUserRegs (Vector.ofFn fun k => if k ≤ x then f k else s.userRegs[k.val])

/-! ### Memory as data (R70, log 11) -/

/-- The listed byte at an address, if it is listed. -/
def Memory.lookup : Memory → Nat → Option Byte
  | [], _ => none
  | (k, b) :: rest, a => if k = a then some b else Memory.lookup rest a

/-- List a byte, keeping the addresses rising. -/
def Memory.insert (a : Nat) (b : Byte) : Memory → Memory
  | [] => [(a, b)]
  | (k, c) :: rest =>
    if a < k then (a, b) :: (k, c) :: rest
    else if a = k then (a, b) :: rest
    else (k, c) :: Memory.insert a b rest

/-- Take an address off the list. -/
def Memory.erase (a : Nat) (m : Memory) : Memory := m.filter fun cell => cell.1 != a

/-- `memory[a]` (R70, R76): the listed byte, or what the address holds at construction. -/
def Memory.read (c : Config) (m : Memory) (a : Nat) : Byte := (Memory.lookup m a).getD (c.resetByte a)

/-- `memory[a] <- b` (R77), in canonical form: writing what the address reads as unlisted takes it off the list. -/
def Memory.write (c : Config) (m : Memory) (a : Nat) (b : Byte) : Memory :=
  if b = c.resetByte a then Memory.erase a m else Memory.insert a b m

/-- Single-byte writes at ascending addresses from `a` (R74). -/
def Memory.writeBytes (c : Config) (m : Memory) (a : Nat) : List Byte → Memory
  | [] => m
  | b :: rest => Memory.writeBytes c (Memory.write c m a b) (a + 1) rest

/-- The canonical form: addresses strictly rising, no entry equal to what an unlisted address reads as. -/
abbrev Memory.wf (c : Config) (m : Memory) : Prop :=
  m.Pairwise (fun p q => p.1 < q.1) ∧ ∀ p ∈ m, p.2 ≠ c.resetByte p.1

/-- `memory[a]`. -/
def State.readByte (s : State) (a : Nat) : Byte := Memory.read s.cfg s.mem a

/-- Write bytes at ascending addresses from `a`. The caller has checked the addresses (R78). -/
def State.writeBytes (s : State) (a : Nat) (bs : List Byte) : State :=
  s.withMem (Memory.writeBytes s.cfg s.mem a bs)

/-! ### Access checks (R76 to R78) -/

/-- The check of `MemRead` (R76). -/
def readFault (cap a : Nat) : Option Fault :=
  if a ≥ cap then some .memOutOfRange else none

/-- The check of `MemWrite` (R77). -/
def writeFault (cap a : Nat) : Option Fault :=
  if a ≥ cap then some .memOutOfRange else if a < 0x200 then some .protectedWrite else none

/-- Apply a check to `a, a+1, …, a+n-1` in ascending order; the first that fails, with its address (R78). -/
def firstFault (check : Nat → Option Fault) (a : Nat) : Nat → Option (Fault × Nat)
  | 0 => none
  | n + 1 =>
    match check a with
    | some r => some (r, a)
    | none => firstFault check (a + 1) n

/-- `CheckRead(a, n)` (R78). -/
def State.checkRead (s : State) (a n : Nat) : Option (Fault × Nat) := firstFault (readFault s.cfg.cap) a n

/-- `CheckWrite(a, n)` (R78). -/
def State.checkWrite (s : State) (a n : Nat) : Option (Fault × Nat) := firstFault (writeFault s.cfg.cap) a n

/-! ### Taking a fault (R262, R263, R277) -/

/-- `raise Fault(reason, info)`: the state before the cycle plus the fault record, and the cycle's outcome
`Faulted` (R119, R262, R263). There is no handler, no vector and no return (R277, R278). -/
def State.raiseFault (s : State) (reason : Fault) (info : FaultInfo) : State :=
  (((s.withFault (some reason)).withFaultPc s.pc).withFaultInfo info).withLastOutcome (some .faulted)

/-- Checks come before effects (R78): raise the first failing check, or go on to the effect. -/
def State.guarded (s : State) (failed : Option (Fault × Nat)) (effect : State) : Result :=
  match failed with
  | some (reason, a) => .next (s.raiseFault reason (BitVec.ofNat 17 a))
  | none => .next effect

/-! ### Ending an instruction (R110, R114) -/

/-- `Delta(d)`: `pc <- (pc + d) mod 2^16`, the cycle ends `Stepped`. -/
def State.advance (s : State) (d : Word) : State := (s.withPc (s.pc + d)).withLastOutcome (some .stepped)

/-- `Jump(t)`: `pc <- t`, no post-increment, the cycle ends `Stepped`. -/
def State.jump (s : State) (t : Word) : State := (s.withPc t).withLastOutcome (some .stepped)

/-- `Delta(0)` of `FX0A`: `pc` stays, the cycle ends `WaitingKey`. -/
def State.stay (s : State) : State := s.withLastOutcome (some .waitingKey)

/-- A skip: `Delta(4)` when the condition holds, `Delta(2)` otherwise (R167). -/
def State.skipIf (s : State) (condition : Bool) : State := s.advance (if condition then 4 else 2)

/-! ### The framebuffer (R42 to R44) -/

/-- Row-major order of cells `(y, x)`. -/
def cellBefore (p q : Nat × Nat) : Bool := p.1 < q.1 || (p.1 == q.1 && p.2 < q.2)

/-- `gfx[y][x]`. -/
def Gfx.get (g : Gfx) (y x : Nat) : Bool := g.contains (y, x)

/-- Set a cell, keeping row-major order. -/
def Gfx.insert (p : Nat × Nat) : Gfx → Gfx
  | [] => [p]
  | q :: rest =>
    if cellBefore p q then p :: q :: rest
    else if p = q then p :: rest
    else q :: Gfx.insert p rest

/-- Unset a cell. -/
def Gfx.erase (p : Nat × Nat) (g : Gfx) : Gfx := g.filter fun q => q != p

/-- `gfx[y][x] <- gfx[y][x] ^ 1` (R193). -/
def Gfx.flip (g : Gfx) (y x : Nat) : Gfx :=
  if g.get y x then Gfx.erase (y, x) g else Gfx.insert (y, x) g

/-- Every cell unset (R190). -/
def Gfx.clear : Gfx := []

/-- Whether a cell lies on the surface of `h` rows and `w` columns. -/
def onSurface (h w : Nat) (p : Nat × Nat) : Bool := p.1 < h && p.2 < w

/-- Move every cell of the surface at once (R199): a set cell goes where `move` sends it, or is lost; cells
outside the surface are unchanged; cells nothing moves to become unset. -/
def Gfx.scroll (h w : Nat) (move : Nat × Nat → Option (Nat × Nat)) (g : Gfx) : Gfx :=
  (g.filter fun p => !onSurface h w p).foldr Gfx.insert ((g.filter (onSurface h w)).filterMap move)

/-- The canonical form: cells in strict row-major order. -/
abbrev Gfx.wf (g : Gfx) : Prop := g.Pairwise fun p q => cellBefore p q = true

/-- `hires()` of R16. -/
def State.hires (s : State) : Bool := s.cfg.variant != .chip8 && s.hiresFlag

/-- `W_eff()` of R16. -/
def State.effWidth (s : State) : Nat :=
  if s.cfg.variant = .chip8 then s.cfg.variant.screenWidth
  else if s.hiresFlag then s.cfg.variant.screenWidth else s.cfg.variant.screenWidth / 2

/-- `H_eff()` of R16. -/
def State.effHeight (s : State) : Nat :=
  if s.cfg.variant = .chip8 then s.cfg.variant.screenHeight
  else if s.hiresFlag then s.cfg.variant.screenHeight else s.cfg.variant.screenHeight / 2

/-- Write the framebuffer and set `draw_flag`, as every writer of `gfx` does (R204, D38). -/
def State.present (s : State) (g : Gfx) : State := (s.withGfx g).withDrawFlag true

/-! ### The call stack (R39, R161, R162) -/

/-- Push `pc` when `sp < 16`. -/
def State.push (s : State) (h : s.sp.val < 16) : State :=
  (s.withStack (s.stack.set s.sp.val s.pc h)).withSp ⟨s.sp.val + 1, by omega⟩

/-- `stack[sp-1]`, the top entry when the stack is not empty (R39). -/
def State.top (s : State) : Word := s.stack[s.sp.val - 1]

/-- Pop: the entry keeps its value (R162). -/
def State.pop (s : State) : State := s.withSp ⟨s.sp.val - 1, by omega⟩

/-! ### The fetch (R111, R112) -/

/-- Whether both opcode bytes lie in `[0x200, CAP)`: the sum is taken without wrap-around (R111). -/
def State.fetchable (s : State) : Bool := 0x200 ≤ s.pc.toNat && s.pc.toNat + 1 < s.cfg.cap

/-- The opcode at `pc`, big-endian (R112). -/
def State.fetch (s : State) : Word := opcodeOfBytes (s.readByte s.pc.toNat) (s.readByte (s.pc.toNat + 1))

/-- Place an opcode's bytes at `pc`. -/
def State.placeOpcode (s : State) (op : Word) : State := s.writeBytes s.pc.toNat (bytesOfOpcode op)

end Sys2Proof.Machine
end

