-- ==== Sys2Proof/Machine/Operands.lean ====
section
/-! DEFINITION. The operand forms (spec/30_encoding.md R92): immediates, addresses, the variant-dependent
register selections (R141, R143, R165), the data address `I + k` (R76), key indices (R176), glyph
addresses (R223, R225) and the user-register bound (R235). -/

namespace Sys2Proof.Machine

/-- `zext_16(NNN)` (R92). -/
def zext16 (nnn : Addr12) : Word := nnn.setWidth 16

/-- `zext_16` of a register value, for sums with addresses (R165, R221). -/
def zextByte (b : Byte) : Word := b.setWidth 16

/-- The source of a shift: `V[X]` on SCHIP, `V[Y]` on CHIP8 and XOCHIP (R141, R143). -/
def State.shiftSource (s : State) (x y : RegIdx) : Byte :=
  if s.cfg.variant = .schip then s.reg x else s.reg y

/-- The `X` field of a `BNNN` word, the high nibble of its `NNN` (R165, C4). -/
def offsetX (nnn : Addr12) : RegIdx := nibbleToFin (nnn.extractLsb' 8 4)

/-- The offset register of `BNNN`: `V[X]` on SCHIP, `V[0]` on CHIP8 and XOCHIP (R165). -/
def State.jumpOffset (s : State) (nnn : Addr12) : Byte :=
  if s.cfg.variant = .schip then s.reg (offsetX nnn) else s.reg 0

/-- The data address `I + k`, an ordinary sum that does not wrap (R76). -/
def State.dataAddr (s : State) (k : Nat) : Nat := s.i.toNat + k

/-- The low nibble of a register value (R223, R225, R176). -/
def lowNibble (b : Byte) : Fin 16 := nibbleToFin (b.extractLsb' 0 4)

/-- `KeyIndex(v)` (R176): none where it raises `KeyIndexOutOfRange`. -/
def keyIndex (policy : KeyIndexPolicy) (b : Byte) : Option KeyIdx :=
  if b.toNat ≤ 0xF then some (lowNibble b)
  else
    match policy with
    | .fault => none
    | .lowNibble => some (lowNibble b)

/-- The address of a low-resolution glyph, `5 * d` (R223). -/
def glyphLoAddr (b : Byte) : Word := BitVec.ofNat 16 (5 * (lowNibble b).val)

/-- The address of a high-resolution glyph, `FONT_HI_BASE + 10 * d`, or none above digit 9 (R225). -/
def glyphHiAddr (c : Config) (b : Byte) : Option Word :=
  if (lowNibble b).val ≤ 9 then some (c.fontHiBase + BitVec.ofNat 16 (10 * (lowNibble b).val)) else none

/-- Whether a request of `FX75`/`FX85` is in range: `X < user_register_count` (R235). -/
def userInRange (c : Config) (x : RegIdx) : Bool := x.val < c.variant.userRegisterCount

/-- `I` after `FX55`/`FX65`: `(I + X + 1) mod CAP` on CHIP8 and XOCHIP, unchanged on SCHIP (R232). -/
def State.afterTransfer (s : State) (x : RegIdx) : Word :=
  if s.cfg.variant = .schip then s.i else BitVec.ofNat 16 ((s.i.toNat + x.val + 1) % s.cfg.cap)

/-- The three decimal digits of a byte: hundreds, tens, ones, by modulo arithmetic only (R230). -/
def bcdDigits (b : Byte) : List Byte :=
  [BitVec.ofNat 8 (b.toNat / 100 % 10), BitVec.ofNat 8 (b.toNat / 10 % 10), BitVec.ofNat 8 (b.toNat % 10)]

end Sys2Proof.Machine
end

