-- ==== Sys2Proof/Machine/Flags.lean ====
section
/-! DEFINITION. What is written to VF (spec/10_state.md R31): carry, no-borrow, the bit shifted out, the
logic reset, the address overflow and the collision flag. -/

namespace Sys2Proof.Machine

/-- A flag as a byte: 1 or 0. -/
def flagByte (b : Bool) : Byte := if b then 1 else 0

/-- Carry of `8XY4`: 1 iff `a + b > 255` (R139). -/
def carryFlag (a b : Byte) : Byte := flagByte (decide (a.toNat + b.toNat > 255))

/-- No-borrow of `8XY5` (`a - b`) and `8XY7` (`b - a`): 1 iff the minuend is at least the subtrahend (R140, R142). -/
def noBorrowFlag (minuend subtrahend : Byte) : Byte := flagByte (decide (minuend.toNat ≥ subtrahend.toNat))

/-- The bit shifted out by `8XY6`, `src & 1` (R141). -/
def shiftRightFlag (src : Byte) : Byte := src &&& 1

/-- The bit shifted out by `8XYE`, `src >> 7` (R143). -/
def shiftLeftFlag (src : Byte) : Byte := src >>> 7

/-- The logic-op quirk: on CHIP8 VF is reset to 0 after the result is written; elsewhere it is left alone (R132). -/
def State.logicReset (s : State) : State :=
  if s.cfg.variant = .chip8 then s.setFlag 0 else s

/-- VF after `FX1E`: 1 on overflow; without overflow unchanged, or 0 under the policy `Zero` (R221). -/
def State.addressFlag (s : State) (overflow : Bool) : State :=
  if overflow then s.setFlag 1
  else
    match s.cfg.fx1eVfNoOvf with
    | .unchanged => s
    | .zero => s.setFlag 0

/-- The collision flag of `DXYN` (R195). -/
def collisionFlag (collided : Bool) : Byte := flagByte collided

end Sys2Proof.Machine
end

