-- ==== Sys2Proof/Machine/Alu.lean ====
section
/-! DEFINITION. Arithmetic and logic: `6XNN`, `7XNN`, `8XY0` to `8XYE`, `CXNN` (spec/41_alu.md). Every
operand is read from the state before the instruction; the result is written, then the flag (R131). -/

namespace Sys2Proof.Machine

/-- `6XNN` LD VX, NN (R133). -/
def execLdImm (x : RegIdx) (nn : Byte) (s : State) : Result := .next ((s.setReg x nn).advance 2)

/-- `7XNN` ADD VX, NN: wraps, no carry recorded (R134). -/
def execAddImm (x : RegIdx) (nn : Byte) (s : State) : Result := .next ((s.setReg x (s.reg x + nn)).advance 2)

/-- `8XY0` LD VX, VY (R135). -/
def execLdReg (x y : RegIdx) (s : State) : Result := .next ((s.setReg x (s.reg y)).advance 2)

/-- `8XY1` OR VX, VY (R136). -/
def execOrReg (x y : RegIdx) (s : State) : Result :=
  .next ((s.setReg x (s.reg x ||| s.reg y)).logicReset.advance 2)

/-- `8XY2` AND VX, VY (R137). -/
def execAndReg (x y : RegIdx) (s : State) : Result :=
  .next ((s.setReg x (s.reg x &&& s.reg y)).logicReset.advance 2)

/-- `8XY3` XOR VX, VY (R138). -/
def execXorReg (x y : RegIdx) (s : State) : Result :=
  .next ((s.setReg x (s.reg x ^^^ s.reg y)).logicReset.advance 2)

/-- `8XY4` ADD VX, VY: VF is the carry (R139). -/
def execAddReg (x y : RegIdx) (s : State) : Result :=
  .next ((s.setRegFlag x (s.reg x + s.reg y) (carryFlag (s.reg x) (s.reg y))).advance 2)

/-- `8XY5` SUB VX, VY: VF is 1 iff no borrow (R140). -/
def execSub (x y : RegIdx) (s : State) : Result :=
  .next ((s.setRegFlag x (s.reg x - s.reg y) (noBorrowFlag (s.reg x) (s.reg y))).advance 2)

/-- `8XY6` SHR VX, VY: VF is the bit shifted out (R141). -/
def execShr (x y : RegIdx) (s : State) : Result :=
  .next ((s.setRegFlag x (s.shiftSource x y >>> 1) (shiftRightFlag (s.shiftSource x y))).advance 2)

/-- `8XY7` SUBN VX, VY: `V[Y] - V[X]`, VF is 1 iff no borrow (R142). -/
def execSubn (x y : RegIdx) (s : State) : Result :=
  .next ((s.setRegFlag x (s.reg y - s.reg x) (noBorrowFlag (s.reg y) (s.reg x))).advance 2)

/-- `8XYE` SHL VX, VY: VF is the bit shifted out (R143). -/
def execShl (x y : RegIdx) (s : State) : Result :=
  .next ((s.setRegFlag x (s.shiftSource x y <<< 1) (shiftLeftFlag (s.shiftSource x y))).advance 2)

/-- The byte `CXNN` draws now: a free value, fresh at every execution (R144, log 8). -/
def State.randomByte (s : State) : Byte := Config.rngByte s.rngDraws

/-- `CXNN` RND VX, NN (R144). -/
def execRnd (x : RegIdx) (nn : Byte) (s : State) : Result :=
  .next (((s.setReg x (s.randomByte &&& nn)).withRngDraws (s.rngDraws + 1)).advance 2)

end Sys2Proof.Machine
end

