-- ==== Sys2Proof/Machine/Control.lean ====
section
/-! DEFINITION. Control flow, skips and the key wait (spec/42_control_flow.md). -/

namespace Sys2Proof.Machine

/-- `0NNN` SYS NNN: the legacy no-op (R166). -/
def execSys (_nnn : Addr12) (s : State) : Result := .next (s.advance 2)

/-- `1NNN` JP NNN (R160). -/
def execJp (nnn : Addr12) (s : State) : Result := .next (s.jump (zext16 nnn))

/-- `2NNN` CALL NNN: pushes its own address (R161, R163), or raises StackOverflow with the target. -/
def execCall (nnn : Addr12) (s : State) : Result :=
  if h : s.sp.val < 16 then .next ((s.push h).jump (zext16 nnn))
  else .next (s.raiseFault .stackOverflow (nnn.setWidth 17))

/-- `00EE` RET: goes to the popped value plus 2 (R162), or raises StackUnderflow. -/
def execRet (s : State) : Result :=
  if s.sp.val = 0 then .next (s.raiseFault .stackUnderflow 0)
  else .next (s.pop.jump (s.top + 2))

/-- `BNNN` JP V0, NNN; on SCHIP JP VX, NNN. The sum is not masked (R165). -/
def execJpOffset (nnn : Addr12) (s : State) : Result :=
  .next (s.jump (zext16 nnn + zextByte (s.jumpOffset nnn)))

/-- `3XNN` SE VX, NN (R170). -/
def execSeImm (x : RegIdx) (nn : Byte) (s : State) : Result := .next (s.skipIf (s.reg x == nn))

/-- `4XNN` SNE VX, NN (R171). -/
def execSneImm (x : RegIdx) (nn : Byte) (s : State) : Result := .next (s.skipIf (s.reg x != nn))

/-- `5XY0` SE VX, VY (R172). -/
def execSeReg (x y : RegIdx) (s : State) : Result := .next (s.skipIf (s.reg x == s.reg y))

/-- `9XY0` SNE VX, VY (R173). -/
def execSneReg (x y : RegIdx) (s : State) : Result := .next (s.skipIf (s.reg x != s.reg y))

/-- A key skip: the key of `V[X]`, or KeyIndexOutOfRange with the register's value (R174 to R176). -/
def State.keySkip (s : State) (x : RegIdx) (skipWhen : Bool) : Result :=
  match keyIndex s.cfg.keyIndexPolicy (s.reg x) with
  | some k => .next (s.skipIf (s.keyState[k.val] == skipWhen))
  | none => .next (s.raiseFault .keyIndexOutOfRange ((s.reg x).setWidth 17))

/-- `EX9E` SKP VX (R174). -/
def execSkp (x : RegIdx) (s : State) : Result := s.keySkip x true

/-- `EXA1` SKNP VX (R175). -/
def execSknp (x : RegIdx) (s : State) : Result := s.keySkip x false

/-- `FX0A` LD VX, K: arms the wait, waits, or takes the captured key (R180). -/
def execLdVxK (x : RegIdx) (s : State) : Result :=
  match s.keyWait with
  | .idle => .next (s.withKeyWait .armed).stay
  | .armed => .next s.stay
  | .captured k => .next (((s.setReg x (BitVec.ofNat 8 k.val)).withKeyWait .idle).advance 2)

end Sys2Proof.Machine
end

