-- ==== Sys2Proof/Machine/Display.lean ====
section
/-! DEFINITION. The framebuffer writers: clear, draw, resolution switch, scrolls (spec/43_display.md). -/

namespace Sys2Proof.Machine

/-- `00E0` CLS: the whole framebuffer, whatever the resolution (R190). -/
def execCls (s : State) : Result := .next ((s.present Gfx.clear).advance 2)

/-! ### Draw (R192 to R195) -/

/-- The sprite geometry of R192. -/
structure SpriteGeom where
  w : Nat
  h : Nat
  x0 : Nat
  y0 : Nat
  rows : Nat
  bpr : Nat
  deriving DecidableEq, Repr

/-- A super sprite: `N = 0` in high resolution (R192). -/
def State.isSuperSprite (s : State) (n : Count) : Bool := s.hires && n.val == 0

/-- The geometry of `DXYN`, computed before any pixel is drawn (R192). -/
def State.spriteGeom (s : State) (x y : RegIdx) (n : Count) : SpriteGeom where
  w := s.effWidth
  h := s.effHeight
  x0 := (s.reg x).toNat % s.effWidth
  y0 := (s.reg y).toNat % s.effHeight
  rows := if s.isSuperSprite n then 16 else n.val
  bpr := if s.isSuperSprite n then 2 else 1

/-- The number of sprite bytes, `rows * bpr` (R192). -/
def SpriteGeom.nbytes (g : SpriteGeom) : Nat := g.rows * g.bpr

/-- The bit positions `(r, c)` of a sprite, row by row (R193). -/
def SpriteGeom.positions (g : SpriteGeom) : List (Nat × Nat) :=
  (List.range g.rows).flatMap fun r => (List.range (8 * g.bpr)).map fun c => (r, c)

/-- Column `c` of row `r`: bit `7 - (c mod 8)` of byte `memory[I + r*bpr + c div 8]` (R192). -/
def State.spriteBit (s : State) (g : SpriteGeom) (p : Nat × Nat) : Bool :=
  (s.readByte (s.dataAddr (p.1 * g.bpr + p.2 / 8))).getLsbD (7 - p.2 % 8)

/-- The cell `(y, x)` a bit position falls on: wrapped on XOCHIP, none where it is clipped elsewhere (R193, R194). -/
def SpriteGeom.cell (g : SpriteGeom) (v : Variant) (p : Nat × Nat) : Option (Nat × Nat) :=
  if v = .xochip then some ((g.y0 + p.1) % g.h, (g.x0 + p.2) % g.w)
  else if g.x0 + p.2 ≥ g.w ∨ g.y0 + p.1 ≥ g.h then none
  else some (g.y0 + p.1, g.x0 + p.2)

/-- One set source bit: record a collision with a set cell, then flip the cell (R193). -/
def plot (acc : Gfx × Bool) (p : Nat × Nat) : Gfx × Bool :=
  (acc.1.flip p.1 p.2, acc.2 || acc.1.get p.1 p.2)

/-- The cells the set bits of the sprite fall on, in drawing order. -/
def State.spriteCells (s : State) (g : SpriteGeom) : List (Nat × Nat) :=
  (g.positions.filter (s.spriteBit g)).filterMap (g.cell s.cfg.variant)

/-- The framebuffer after the draw, and whether a set cell was unset (R193, R195). -/
def State.drawSprite (s : State) (g : SpriteGeom) : Gfx × Bool :=
  (s.spriteCells g).foldl plot (s.gfx, false)

/-- The display wait: after a low-resolution draw on a variant that has it, `display_wait <- 1` (R117). -/
def State.waitForDisplay (s : State) : State :=
  if s.cfg.variant.loresDisplayWait && !s.hires then s.withDisplayWait true else s

/-- `DXYN` DRW VX, VY, N (R193): all sprite bytes are checked before any pixel changes. -/
def execDrw (x y : RegIdx) (n : Count) (s : State) : Result :=
  let g := s.spriteGeom x y n
  let drawn := s.drawSprite g
  s.guarded (s.checkRead (s.dataAddr 0) g.nbytes)
    (((s.present drawn.1).setFlag (collisionFlag drawn.2)).advance 2).waitForDisplay

/-! ### Resolution and scrolls (R197 to R203)

These instructions are SCHIP's and XOCHIP's. On CHIP8 their words are the `0NNN` no-op (R95), and the decoder
never gives them; asked directly, `exec` answers the no-op there (log 13). -/

/-- The effect on SCHIP and XOCHIP, the `0NNN` no-op on CHIP8 (R95, R197 to R199). -/
def State.onExtended (s : State) (effect : State) : Result :=
  .next ((if s.cfg.variant.isExtended then effect else s).advance 2)

/-- Select a resolution: XOCHIP clears the framebuffer, SCHIP keeps it; `draw_flag` is set (R197, R198). -/
def State.selectResolution (s : State) (high : Bool) : State :=
  (s.withHiresFlag high).present (if s.cfg.variant = .xochip then Gfx.clear else s.gfx)

/-- `00FE` LOW (R197). -/
def execLow (s : State) : Result := s.onExtended (s.selectResolution false)

/-- `00FF` HIGH (R198). -/
def execHigh (s : State) : Result := s.onExtended (s.selectResolution true)

/-- Scroll the effective surface by a move of its cells (R199). -/
def State.scrollBy (s : State) (move : Nat × Nat → Option (Nat × Nat)) : State :=
  s.present (s.gfx.scroll s.effHeight s.effWidth move)

/-- Down `n` rows: the bottom `n` rows are lost (R200). -/
def moveDown (h n : Nat) (p : Nat × Nat) : Option (Nat × Nat) :=
  if p.1 + n < h then some (p.1 + n, p.2) else none

/-- Up `n` rows: the top `n` rows are lost (R201). -/
def moveUp (n : Nat) (p : Nat × Nat) : Option (Nat × Nat) :=
  if n ≤ p.1 then some (p.1 - n, p.2) else none

/-- Right `n` columns: the rightmost `n` columns are lost (R202). -/
def moveRight (w n : Nat) (p : Nat × Nat) : Option (Nat × Nat) :=
  if p.2 + n < w then some (p.1, p.2 + n) else none

/-- Left `n` columns: the leftmost `n` columns are lost (R203). -/
def moveLeft (n : Nat) (p : Nat × Nat) : Option (Nat × Nat) :=
  if n ≤ p.2 then some (p.1, p.2 - n) else none

/-- `00CN` SCD N (R200). -/
def execScd (n : Count) (s : State) : Result := s.onExtended (s.scrollBy (moveDown s.effHeight n.val))

/-- `00DN` SCU N (R201). -/
def execScu (n : Count) (s : State) : Result := s.onExtended (s.scrollBy (moveUp n.val))

/-- `00FB` SCR: 4 columns (R202). -/
def execScr (s : State) : Result := s.onExtended (s.scrollBy (moveRight s.effWidth 4))

/-- `00FC` SCL: 4 columns (R203). -/
def execScl (s : State) : Result := s.onExtended (s.scrollBy (moveLeft 4))

end Sys2Proof.Machine
end

