-- ==== Sys2Proof/Machine/Timers.lean ====
section
/-! DEFINITION. The timer instructions (spec/45_timers.md). -/

namespace Sys2Proof.Machine

/-- `FX07` LD VX, DT (R250). -/
def execLdVxDt (x : RegIdx) (s : State) : Result := .next ((s.setReg x s.dt).advance 2)

/-- `FX15` LD DT, VX (R251). -/
def execLdDtVx (x : RegIdx) (s : State) : Result := .next ((s.withDt (s.reg x)).advance 2)

/-- `FX18` LD ST, VX (R252). -/
def execLdStVx (x : RegIdx) (s : State) : Result := .next ((s.withSt (s.reg x)).advance 2)

end Sys2Proof.Machine
end

