-- ==== Sys2Proof/Machine/Transfer.lean ====
section
/-! DEFINITION. The address register, BCD, register transfer and the user registers
(spec/44_memory_transfer.md). -/

namespace Sys2Proof.Machine

/-- `ANNN` LD I, NNN (R220). -/
def execLdI (nnn : Addr12) (s : State) : Result := .next ((s.withI (zext16 nnn)).advance 2)

/-- The natural-number sum of `FX1E` (R221). -/
def State.addressSum (s : State) (x : RegIdx) : Nat := s.i.toNat + (s.reg x).toNat

/-- Whether `FX1E` overflows: the sum is at or above CAP (R221, R222). -/
def State.addressOverflow (s : State) (x : RegIdx) : Bool := s.cfg.cap ≤ s.addressSum x

/-- `I` after `FX1E`: the sum, less CAP on overflow (R221, R222). -/
def State.addressWrapped (s : State) (x : RegIdx) : Word :=
  BitVec.ofNat 16 (if s.addressOverflow x then s.addressSum x - s.cfg.cap else s.addressSum x)

/-- `FX1E` ADD I, VX (R221). -/
def execAddI (x : RegIdx) (s : State) : Result :=
  .next (((s.withI (s.addressWrapped x)).addressFlag (s.addressOverflow x)).advance 2)

/-- `FX29` LD F, VX (R223). -/
def execLdF (x : RegIdx) (s : State) : Result := .next ((s.withI (glyphLoAddr (s.reg x))).advance 2)

/-- `I` after `FX30`: above digit 9 there is no state change (R225). -/
def State.glyphHi (s : State) (x : RegIdx) : Word := (glyphHiAddr s.cfg (s.reg x)).getD s.i

/-- `FX30` LD HF, VX (R225). On CHIP8 its word is illegal (R99): the decoder rejects it before, and asked
directly `exec` raises IllegalOpcode (log 13). -/
def execLdHf (x : RegIdx) (s : State) : Result :=
  if s.cfg.variant.isExtended then .next ((s.withI (s.glyphHi x)).advance 2)
  else .next (s.raiseFault .illegalOpcode ((encodeWord (.ldHf x)).setWidth 17))

/-- `FX33` LD B, VX: three bytes at `I`, all checked first (R230). -/
def execLdB (x : RegIdx) (s : State) : Result :=
  s.guarded (s.checkWrite (s.dataAddr 0) 3)
    ((s.writeBytes (s.dataAddr 0) (bcdDigits (s.reg x))).advance 2)

/-- `FX55` LD [I], VX: `V[0..X]` at `I`, all checked first; `I` advances but on SCHIP (R231, R232). -/
def execStoreRegs (x : RegIdx) (s : State) : Result :=
  s.guarded (s.checkWrite (s.dataAddr 0) (x.val + 1))
    (((s.writeBytes (s.dataAddr 0) (s.regsUpTo x)).withI (s.afterTransfer x)).advance 2)

/-- `FX65` LD VX, [I]: `V[0..X]` from `I`, all checked first; `I` advances but on SCHIP (R232, R233). -/
def execLoadRegs (x : RegIdx) (s : State) : Result :=
  s.guarded (s.checkRead (s.dataAddr 0) (x.val + 1))
    (((s.setRegsUpTo x fun k => s.readByte (s.dataAddr k.val)).withI (s.afterTransfer x)).advance 2)

/-- `FX75` LD R, VX: out of range it changes nothing but `pc` (R235, R236). -/
def execStoreUser (x : RegIdx) (s : State) : Result :=
  .next ((if userInRange s.cfg x then s.setUserRegsUpTo x s.reg else s).advance 2)

/-- `FX85` LD VX, R: out of range it changes nothing but `pc` (R235, R237). -/
def execLoadUser (x : RegIdx) (s : State) : Result :=
  .next ((if userInRange s.cfg x then s.setRegsUpTo x s.userReg else s).advance 2)

end Sys2Proof.Machine
end

