-- ==== Sys2Proof/Machine/HostEvents.lean ====
section
/-! DEFINITION. The host's events other than the cycle (spec/60_exceptions.md R269 to R274, spec/20_memory.md
R87) and the core's outputs (R280 to R282). -/

namespace Sys2Proof.Machine

/-- `sat_dec` of R16. -/
def satDec (t : Byte) : Byte := if t = 0 then 0 else t - 1

/-- `Tick()` (R270): nothing after a fault; else both timers count down and the display wait ends. -/
def State.tick (s : State) : State :=
  if s.fault.isSome then s
  else ((s.withDt (satDec s.dt)).withSt (satDec s.st)).withDisplayWait false

/-- The key wait after a key event: `Armed` captures a key that goes from released to pressed (R181, R272). -/
def KeyWait.afterKey (w : KeyWait) (k : KeyIdx) (wasPressed pressed : Bool) : KeyWait :=
  match w with
  | .armed => if pressed && !wasPressed then .captured k else .armed
  | .idle => .idle
  | .captured j => .captured j

/-- `KeyEvent(k, pressed)` (R272): nothing after a fault. -/
def State.keyEvent (s : State) (k : KeyIdx) (pressed : Bool) : State :=
  if s.fault.isSome then s
  else
    (s.withKeyState (s.keyState.set k.val pressed)).withKeyWait
      (s.keyWait.afterKey k s.keyState[k.val] pressed)

/-- `DisplayAck()` (R274): accepted in every state. -/
def State.displayAck (s : State) : State := s.withDrawFlag false

/-- Whether Load may happen: after construction, before the first cycle, at most once (R87, log 7). -/
def State.loadable (s : State) : Bool := s.lastOutcome.isNone && !s.romLoaded

/-- The bytes of a ROM, placed from address `a` up; the later ones are listed first, so each is put at the
front of the list. -/
def Memory.placeRom (c : Config) (m : Memory) (a : Nat) : List Byte → Memory
  | [] => m
  | b :: rest => Memory.write c (Memory.placeRom c m (a + 1) rest) a b

/-- `Load(rom)` (R87): `memory[0x200 + k] <- rom[k]`; a ROM that does not fit, or a Load out of its place, is
refused. -/
def State.load (s : State) (rom : List Byte) : Result :=
  if s.loadable then
    if 0x200 + rom.length ≤ s.cfg.cap then
      .next ((s.withMem (Memory.placeRom s.cfg s.mem 0x200 rom)).withRomLoaded true)
    else .refused .romTooLarge
  else .refused .loadNotAllowed

/-! ### Outputs (R280) -/

/-- The outputs the host may read at any time between transitions (R280). -/
structure Outputs where
  gfx : Gfx
  drawFlag : Bool
  resScale : Rat
  hires : Bool
  tone : Bool
  fault : Option Fault
  faultPc : Word
  faultInfo : FaultInfo
  lastOutcome : Option CycleOutcome
  deriving DecidableEq, Repr

/-- `res_scale`: 1 unless high resolution is active; then the open parameter RES_SCALE_HIRES (R281, log 14). -/
def State.resScale (s : State) : Rat := if s.hires then Config.resScaleHires s.cfg.variant else 1

/-- `tone = (ST > 0)` (R282). -/
def State.tone (s : State) : Bool := decide (s.st.toNat > 0)

/-- The outputs of a state (R280). Reading changes nothing. -/
def State.outputs (s : State) : Outputs where
  gfx := s.gfx
  drawFlag := s.drawFlag
  resScale := s.resScale
  hires := s.hires
  tone := s.tone
  fault := s.fault
  faultPc := s.faultPc
  faultInfo := s.faultInfo
  lastOutcome := s.lastOutcome

end Sys2Proof.Machine
end

