-- ==== Sys2Proof/Machine/Cycle.lean ====
section
/-! DEFINITION. The fetch-decode-execute cycle (spec/40_cycle.md R110 to R120) and one transition of the core
for each event of the host (spec/60_exceptions.md R269). -/

namespace Sys2Proof.Machine

/-- Decode and execute a fetched opcode: an illegal one raises IllegalOpcode with the opcode (R113, R114). -/
def State.run (s : State) (op : Word) : Result :=
  match decodeWord s.cfg.variant op with
  | .ok i => exec i s
  | .error _ => .next (s.raiseFault .illegalOpcode (op.setWidth 17))

/-- `Cycle()` (R120): the gate, the fetch check, then the fetched opcode, in the order of R265. A gated cycle
changes nothing but the outcome the host reads (R111, R118, log 12). -/
def State.cycle (s : State) : Result :=
  if s.fault.isSome then .next (s.withLastOutcome (some .faulted))
  else if s.displayWait then .next (s.withLastOutcome (some .waitingDisplay))
  else if s.fetchable then s.run s.fetch
  else .next (s.raiseFault .pcOutOfRange (s.pc.setWidth 17))

/-- One event of the host (R268, R269). -/
def State.apply (s : State) : HostEvent → Result
  | .cycle => s.cycle
  | .tick => .next s.tick
  | .keyEvent k pressed => .next (s.keyEvent k pressed)
  | .displayAck => .next s.displayAck
  | .load rom => s.load rom

/-- Open the gates of R111 for a fetch at `pc`: no fault, no display wait, no other event first. -/
def State.ready (s : State) : State := ((s.withFault none).withDisplayWait false).withHostEvents []

end Sys2Proof.Machine
end

