-- ==== Sys2Proof/Machine/Step.lean ====
section
/-! DEFINITION. One step: the next event of the host's schedule, or a cycle when the schedule is empty
(log 6); and the placing of an opcode where the step fetches it (log 15). -/

namespace Sys2Proof.Machine

/-- One atomic transition of the core (R268, R275). -/
def step (s : State) : Host.Outcome State Fault Refusal :=
  match s.hostEvents with
  | [] => s.cycle
  | e :: rest => (s.withHostEvents rest).apply e

/-- `s` with the opcode whose bits are `w` at `pc`, big-endian, and the gates open, so that the next step
fetches and runs it (log 15). -/
def State.withFetchWord (s : State) (nbits w : Nat) : State :=
  s.ready.placeOpcode (BitVec.ofNat 16 (w % 2 ^ nbits))

end Sys2Proof.Machine
end

