-- ==== Sys2Proof/Safety.lean ====
section
/-! DEFINITION. The terms the statements use: what an instruction leaves unchanged, how it completes or takes
a fault, the invariant of the machine, and the surface and the sprite of the display rules written as
arithmetic (spec/00_scope.md R16, spec/43_display.md R192 to R194). -/

namespace Sys2Proof.Machine

/-! ### Frames -/

/-- The parts of the state a frame speaks of. The parameters are not among them: nothing changes them (R3). -/
inductive Part where
  | regs
  | index
  | pc
  | stack
  | delayTimer
  | soundTimer
  | framebuffer
  | keys
  | keyWait
  | drawFlag
  | resolution
  | displayWait
  | userRegs
  | faultRecord
  | memory
  | outcome
  | romLoaded
  | draws
  | schedule
  deriving DecidableEq, Repr

/-- A part is the same in two states. Memory is compared byte by byte, through its read. -/
def Part.same (s t : State) : Part → Prop
  | .regs => ∀ r, t.reg r = s.reg r
  | .index => t.i = s.i
  | .pc => t.pc = s.pc
  | .stack => t.sp = s.sp ∧ t.stack = s.stack
  | .delayTimer => t.dt = s.dt
  | .soundTimer => t.st = s.st
  | .framebuffer => t.gfx = s.gfx
  | .keys => t.keyState = s.keyState
  | .keyWait => t.keyWait = s.keyWait
  | .drawFlag => t.drawFlag = s.drawFlag
  | .resolution => t.hiresFlag = s.hiresFlag
  | .displayWait => t.displayWait = s.displayWait
  | .userRegs => ∀ k, t.userReg k = s.userReg k
  | .faultRecord => t.fault = s.fault ∧ t.faultPc = s.faultPc ∧ t.faultInfo = s.faultInfo
  | .memory => ∀ a, t.readByte a = s.readByte a
  | .outcome => t.lastOutcome = s.lastOutcome
  | .romLoaded => t.romLoaded = s.romLoaded
  | .draws => t.rngDraws = s.rngDraws
  | .schedule => t.hostEvents = s.hostEvents

/-- Every part but the listed ones is the same, and so are the parameters. -/
def Frame (changes : List Part) (s t : State) : Prop :=
  t.cfg = s.cfg ∧ ∀ p, p ∉ changes → p.same s t

/-- Every register but the listed ones is the same. -/
def KeepsRegsBut (s t : State) (written : List RegIdx) : Prop :=
  ∀ r, r ∉ written → t.reg r = s.reg r

/-! ### How an instruction ends -/

/-- The instruction's word, as a number (R91, R94). -/
def HasWord (i : Instr) (w : Nat) : Prop := (encodeWord i).toNat = w

/-- The cycle ended `Stepped` and `pc` moved by `d` modulo 2^16 (R114). -/
def Stepped (s t : State) (d : Nat) : Prop :=
  t.pc.toNat = (s.pc.toNat + d) % 65536 ∧ t.lastOutcome = some .stepped

/-- The cycle ended `Stepped` at `target`, with no post-increment (R114). -/
def JumpedTo (t : State) (target : Nat) : Prop :=
  t.pc.toNat = target ∧ t.lastOutcome = some .stepped

/-- `exec i s` answers a next state that meets `post` and differs from `s` at most in `pc`, the cycle's outcome
and the listed parts. -/
def Completes (i : Instr) (s : State) (changes : List Part) (post : State → Prop) : Prop :=
  ∃ t, exec i s = .next t ∧ Frame (.pc :: .outcome :: changes) s t ∧ post t

/-- A fault is taken: the state before plus the fault record, and the outcome `Faulted` (R119, R262, R263). -/
def TakesFault (s t : State) (reason : Fault) (info : Nat) : Prop :=
  Frame [.faultRecord, .outcome] s t ∧ t.fault = some reason ∧ t.faultPc = s.pc ∧
    t.faultInfo.toNat = info ∧ t.lastOutcome = some .faulted

/-- `exec i s` takes a fault. -/
def Faults (i : Instr) (s : State) (reason : Fault) (info : Nat) : Prop :=
  ∃ t, exec i s = .next t ∧ TakesFault s t reason info

/-- The next transition is a Cycle: the schedule is empty (log 6), or a Cycle event stands first in it (R269). -/
def CycleNext (s : State) : Prop := s.hostEvents = [] ∨ ∃ rest, s.hostEvents = .cycle :: rest

/-- The state with its next event taken off the schedule, which is where a transition begins: `s` itself when the
schedule is empty (log 6). -/
def State.dequeue (s : State) : State := s.withHostEvents s.hostEvents.tail

/-- Nothing stands before a fetch: the next transition is a Cycle, with no fault and no display wait (R111). -/
def GatesOpen (s : State) : Prop := CycleNext s ∧ s.fault = none ∧ s.displayWait = false

/-! ### The surface and the sprite, as arithmetic -/

/-- The width of the effective drawing surface: 64, or 128 in high resolution on SCHIP and XOCHIP (R7, R16). -/
def surfaceWidth (s : State) : Nat :=
  if s.cfg.variant ≠ .chip8 ∧ s.hiresFlag = true then 128 else 64

/-- The height of the effective drawing surface: 32, or 64 in high resolution on SCHIP and XOCHIP (R7, R16). -/
def surfaceHeight (s : State) : Nat :=
  if s.cfg.variant ≠ .chip8 ∧ s.hiresFlag = true then 64 else 32

/-- `N = 0` in high resolution on SCHIP and XOCHIP: the 16 by 16 super sprite (R192). -/
abbrev SuperSprite (s : State) (n : Count) : Prop :=
  s.cfg.variant ≠ .chip8 ∧ s.hiresFlag = true ∧ n.val = 0

/-- The bytes a sprite row takes (R192). -/
def spriteRowBytes (s : State) (n : Count) : Nat :=
  if SuperSprite s n then 2 else 1

/-- The rows of a sprite (R192). -/
def spriteRows (s : State) (n : Count) : Nat :=
  if SuperSprite s n then 16 else n.val

/-- Bit `(r, c)` of the sprite at `I` is set: bit `7 - (c mod 8)` of byte `I + r * bytes + c / 8` (R192). -/
def SpriteBitSet (s : State) (bytes r c : Nat) : Prop :=
  (s.readByte (s.i.toNat + r * bytes + c / 8)).toNat / 2 ^ (7 - c % 8) % 2 = 1

/-- Bit `(r, c)` of a sprite drawn at `(V[X], V[Y])` falls on cell `(yy, xx)`: the start is reduced modulo the
surface on every variant, then XOCHIP wraps and the others clip (R192 to R194). -/
def LandsOn (s : State) (x y : RegIdx) (r c yy xx : Nat) : Prop :=
  let w := surfaceWidth s
  let h := surfaceHeight s
  let x0 := (s.reg x).toNat % w
  let y0 := (s.reg y).toNat % h
  if s.cfg.variant = .xochip then yy = (y0 + r) % h ∧ xx = (x0 + c) % w
  else yy = y0 + r ∧ xx = x0 + c ∧ yy < h ∧ xx < w

/-- A set bit of the sprite falls on cell `(yy, xx)` (R193). -/
def Covers (s : State) (x y : RegIdx) (n : Count) (yy xx : Nat) : Prop :=
  ∃ r c, r < spriteRows s n ∧ c < 8 * spriteRowBytes s n ∧
    SpriteBitSet s (spriteRowBytes s n) r c ∧ LandsOn s x y r c yy xx

/-- The number of sprite bytes (R192). -/
def spriteBytes (s : State) (n : Count) : Nat := spriteRows s n * spriteRowBytes s n

/-- Every sprite byte lies below CAP, or there is none (R76, R78). -/
def SpriteReadable (s : State) (n : Count) : Prop :=
  spriteBytes s n = 0 ∨ s.i.toNat + spriteBytes s n ≤ s.cfg.cap

/-! ### Invariants -/

/-- The invariant of the machine: what construction establishes and every transition keeps. -/
structure Inv (s : State) : Prop where
  /-- The parameters have their sizes (log 11). -/
  params : s.cfg.Wf
  /-- `I < CAP` (R34). -/
  index : s.i.toNat < s.cfg.cap
  /-- Memory is in canonical form (log 11). -/
  memory : Memory.wf s.cfg s.mem
  /-- Only bytes in `[0x200, CAP)` ever differ from construction (R71, R77, R80). -/
  writable : ∀ p ∈ s.mem, 0x200 ≤ p.1 ∧ p.1 < s.cfg.cap
  /-- The framebuffer is in canonical form (log 9). -/
  framebuffer : s.gfx.wf
  /-- Every set cell lies on the screen (R42). -/
  screen : ∀ p ∈ s.gfx, p.1 < s.cfg.variant.screenHeight ∧ p.2 < s.cfg.variant.screenWidth
  /-- `hires_flag` is held at 0 on CHIP8 (R47). -/
  resolution : s.cfg.variant = .chip8 → s.hiresFlag = false
  /-- `display_wait` is set only in low resolution on a variant that has it (R117). -/
  displayWait : s.displayWait = true → s.cfg.variant.loresDisplayWait = true ∧ s.hires = false
  /-- The user registers at and above the count hold 0 (R48, log 10). -/
  userRegs : ∀ k : RegIdx, s.cfg.variant.userRegisterCount ≤ k.val → s.userReg k = 0
  /-- The last cycle ended `Faulted` exactly when a fault is recorded (R110, R262). -/
  faulted : s.lastOutcome = some .faulted ↔ s.fault ≠ none

/-- The key wait: while it is not `Idle`, a cycle has run and the opcode at `pc` is an `FX0A` (R46). -/
def KeyWaitInv (s : State) : Prop :=
  s.keyWait ≠ .idle →
    s.lastOutcome ≠ none ∧ ∃ x, decodeWord s.cfg.variant s.fetch = .ok (.ldVxK x)

end Sys2Proof.Machine
end

