-- ==== Sys2Proof/Certificates/Slice0/Obligations.lean ====
section
/-! DEFINITION. The statements. Each docstring names the rules of spec/ it formalises; where a clause rests on
a decision the spec marks as its own (92_eei_decisions.md, D<n>) or on the model's choice (log <n>), it says so. -/

open Sys2Proof Sys2Proof.Machine

/-! ### Encoding -/

/-- Every well-formed instruction decodes from its bytes, with every operand, whatever follows (30_encoding.md
section 2; the map is the spec's D10, D11, D21, D30). -/
def Obligations.DecodeOfEncode : Prop :=
  ∀ (v : Variant) (i : Instr) (rest : List Byte),
    i.wf v = true → decode v (encode i ++ rest) = .ok (i, rest)

/-- A word that decodes is the word of the instruction it decodes to, and that instruction is well formed:
each word has one meaning and each instruction one word (30_encoding.md sections 1 and 2). -/
def Obligations.EncodeOfDecode : Prop :=
  ∀ (v : Variant) (op : Word) (i : Instr),
    decodeWord v op = .ok i → i.wf v = true ∧ encodeWord i = op

/-- The decoder picks the first row of the opcode table, in decode order, that covers the word on the variant,
and rejects a word no row covers (spec/opcode_table.json, decode_note). -/
def Obligations.DecodeFollowsTable : Prop :=
  ∀ (v : Variant) (op : Word),
    opcodeTable.find? (fun r => r.covers v op) =
      match decodeWord v op with
      | .ok i => some i.row
      | .error _ => none

/-- The illegal words, class by class, are those of the table of 30_encoding.md R99 (the spec's D10, D11, D31). -/
def Obligations.IllegalWordsExact : Prop :=
  ∀ (v : Variant) (op : Word),
    (decodeWord v op = .error .fiveXYN ↔ op.toNat / 4096 = 5 ∧ op.toNat % 16 ≠ 0) ∧
    (decodeWord v op = .error .nineXYN ↔ op.toNat / 4096 = 9 ∧ op.toNat % 16 ≠ 0) ∧
    (decodeWord v op = .error .eightXYN ↔
      op.toNat / 4096 = 8 ∧ op.toNat % 16 ∈ [0x8, 0x9, 0xA, 0xB, 0xC, 0xD, 0xF]) ∧
    (decodeWord v op = .error .eXNN ↔ op.toNat / 4096 = 0xE ∧ op.toNat % 256 ∉ [0x9E, 0xA1]) ∧
    (decodeWord v op = .error .fXNN ↔
      op.toNat / 4096 = 0xF ∧ op.toNat % 256 ≠ 0x30 ∧
        op.toNat % 256 ∉ [0x07, 0x0A, 0x15, 0x18, 0x1E, 0x29, 0x33, 0x55, 0x65, 0x75, 0x85]) ∧
    (decodeWord v op = .error .fx30OnChip8 ↔
      op.toNat / 4096 = 0xF ∧ op.toNat % 256 = 0x30 ∧ v = .chip8)

/-- A word of each of the sixteen families `0` to `F` decodes to the instruction 30_encoding.md R94 and R101 name (a
sanity statement on sample words). -/
def Obligations.SampleWordsDecode : Prop :=
  decodeWord .chip8 0x00E0 = .ok .cls ∧ decodeWord .chip8 0x00FF = .ok (.sys 0x0FF) ∧
  decodeWord .xochip 0x00FF = .ok .high ∧ decodeWord .schip 0x00C5 = .ok (.scd 5) ∧
  decodeWord .chip8 0x1321 = .ok (.jp 0x321) ∧ decodeWord .chip8 0x2ABC = .ok (.call 0xABC) ∧
  decodeWord .chip8 0x3A42 = .ok (.seImm 0xA 0x42) ∧ decodeWord .chip8 0x4B17 = .ok (.sneImm 0xB 0x17) ∧
  decodeWord .chip8 0x5120 = .ok (.seReg 1 2) ∧ decodeWord .chip8 0x6C99 = .ok (.ldImm 0xC 0x99) ∧
  decodeWord .chip8 0x7D02 = .ok (.addImm 0xD 0x02) ∧ decodeWord .chip8 0x8AB4 = .ok (.addReg 0xA 0xB) ∧
  decodeWord .chip8 0x9340 = .ok (.sneReg 3 4) ∧ decodeWord .chip8 0xA5F0 = .ok (.ldI 0x5F0) ∧
  decodeWord .schip 0xB3F0 = .ok (.jpOffset 0x3F0) ∧ decodeWord .chip8 0xC70F = .ok (.rnd 7 0x0F) ∧
  decodeWord .chip8 0xD125 = .ok (.drw 1 2 5) ∧ decodeWord .chip8 0xE69E = .ok (.skp 6) ∧
  decodeWord .chip8 0xF355 = .ok (.storeRegs 3) ∧ decodeWord .chip8 0xF515 = .ok (.ldDtVx 5)

/-! ### The cycle and the step -/

/-- When nothing gates the fetch and the two bytes at `pc`, big-endian, decode to `i`, the step is `exec` of `i` in
that same state, but for the Cycle event taken off the schedule where one stands first (40_cycle.md R112 to R114,
60_exceptions.md R269; the schedule is log 6). -/
def Obligations.StepRunsDecoded : Prop :=
  ∀ (s : State) (i : Instr),
    GatesOpen s → 0x200 ≤ s.pc.toNat → s.pc.toNat + 1 < s.cfg.cap →
      decode s.cfg.variant [s.readByte s.pc.toNat, s.readByte (s.pc.toNat + 1)] = .ok (i, []) →
        step s = exec i s.dequeue ∧ (s.hostEvents = [] → step s = exec i s)

/-- A word placed where the step fetches is the word the next step runs, and nothing else is placed: every
other byte reads as before, and but for the opened gates the state is as before (log 15). -/
def Obligations.PlacedWordRuns : Prop :=
  ∀ (s : State) (op : Word) (i : Instr),
    0x200 ≤ s.pc.toNat → s.pc.toNat + 1 < s.cfg.cap → decodeWord s.cfg.variant op = .ok i →
      step (s.withFetchWord 16 op.toNat) = exec i (s.withFetchWord 16 op.toNat) ∧
      Frame [.memory, .faultRecord, .displayWait, .schedule] s (s.withFetchWord 16 op.toNat) ∧
      (∀ a, a ≠ s.pc.toNat → a ≠ s.pc.toNat + 1 →
        (s.withFetchWord 16 op.toNat).readByte a = s.readByte a)

/-- The gates, in order: after a fault a cycle ends `Faulted`, else during a display wait it ends `WaitingDisplay`,
else out of `[0x200, CAP-1)` it raises PcOutOfRange with `pc`. The first two change nothing but the outcome reported
(40_cycle.md section 1, R111 and R118: the spec's D9, D24, D27; the stored outcome is log 12, the schedule log 6, the
fault as a next state log 5). -/
def Obligations.CycleGates : Prop :=
  ∀ s : State, CycleNext s →
    (s.fault ≠ none →
      ∃ t, step s = .next t ∧ Frame [.outcome] s.dequeue t ∧ t.lastOutcome = some .faulted) ∧
    (s.fault = none → s.displayWait = true →
      ∃ t, step s = .next t ∧ Frame [.outcome] s.dequeue t ∧ t.lastOutcome = some .waitingDisplay) ∧
    (s.fault = none → s.displayWait = false →
      (s.pc.toNat < 0x200 ∨ s.cfg.cap ≤ s.pc.toNat + 1) →
        ∃ t, step s = .next t ∧ TakesFault s.dequeue t .pcOutOfRange s.pc.toNat)

/-- A fetched word that decodes to no instruction raises IllegalOpcode with the word, and the fault ends the run: under
every schedule the next transition keeps the fault record and changes at most the outcome reported, `draw_flag` (by
the acknowledge) and the schedule itself (40_cycle.md R113, 60_exceptions.md R260 and R264; the record taken and the
frozen state are the spec's D27 and D37, the fault as a next state is log 5). -/
def Obligations.IllegalOpcodeFault : Prop :=
  ∀ (s : State) (op : Word) (why : Illegal),
    GatesOpen s → 0x200 ≤ s.pc.toNat → s.pc.toNat + 1 < s.cfg.cap →
      op.toNat = (s.readByte s.pc.toNat).toNat * 256 + (s.readByte (s.pc.toNat + 1)).toNat →
        decodeWord s.cfg.variant op = .error why →
          ∃ t, step s = .next t ∧ TakesFault s.dequeue t .illegalOpcode op.toNat ∧
            ∀ (events : List HostEvent) (u : State), step (t.withHostEvents events) = .next u →
              Frame [.outcome, .drawFlag, .schedule] t u ∧ u.lastOutcome = some .faulted

/-- No instruction stops the model, in any state: faults are taken as next states (log 5). A step has a next
state unless the host issues a Load. -/
def Obligations.EveryStepCompletes : Prop :=
  (∀ (i : Instr) (s : State), ∃ t, exec i s = .next t) ∧
  ∀ s : State, (∀ rom rest, s.hostEvents ≠ .load rom :: rest) → ∃ t, step s = .next t

/-- A fault is precise: a cycle that takes one leaves the state before it plus the fault record, whose `fault_pc`
is `pc` (60_exceptions.md section 1, R263: the spec's D27; the fault as a next state is log 5, the schedule log 6). -/
def Obligations.FaultsArePrecise : Prop :=
  ∀ s t : State, CycleNext s → s.fault = none → step s = .next t → t.fault ≠ none →
    Frame [.faultRecord, .outcome] s.dequeue t ∧ t.faultPc = s.pc ∧ t.lastOutcome = some .faulted

/-- A fault is final: after it a cycle changes nothing but the outcome reported, a tick and a key event change
nothing, the acknowledge clears `draw_flag` only, and the fault stays recorded through every transition
(60_exceptions.md section 1, R264: the spec's D27, D37). -/
def Obligations.FaultsAreFinal : Prop :=
  ∀ s : State, s.fault ≠ none →
    (∃ t, s.cycle = .next t ∧ Frame [.outcome] s t) ∧
    s.tick = s ∧ (∀ k pressed, s.keyEvent k pressed = s) ∧
    Frame [.drawFlag] s s.displayAck ∧ s.displayAck.drawFlag = false ∧
    ∀ t, step s = .next t → t.fault = s.fault ∧ t.faultPc = s.faultPc ∧ t.faultInfo = s.faultInfo

/-- How every instruction that is taken whole moves `pc`: by 2, but for the four jumps, the six skips (2 or 4)
and `FX0A` (0 while the wait is not satisfied, else 2) (40_cycle.md R114, R115; on CHIP8 `FX30` is illegal,
the spec's D11, log 13). -/
def Obligations.PcMovesByDelta : Prop :=
  ∀ (i : Instr) (s t : State), exec i s = .next t → t.lastOutcome ≠ some .faulted →
    match i with
    | .ret | .jp _ | .call _ | .jpOffset _ => t.lastOutcome = some .stepped
    | .seImm _ _ | .sneImm _ _ | .seReg _ _ | .sneReg _ _ | .skp _ | .sknp _ =>
      Stepped s t 2 ∨ Stepped s t 4
    | .ldVxK _ =>
      (t.pc = s.pc ∧ t.lastOutcome = some .waitingKey ∧ t.keyWait = .armed) ∨
        (Stepped s t 2 ∧ t.keyWait = .idle)
    | _ => Stepped s t 2

/-! ### Host events and outputs -/

/-- `Tick()`: without a fault both timers count down by 1 and stop at 0, the display wait ends and nothing else
changes; after a fault nothing changes (60_exceptions.md section 2, R270: the spec's D24, D37). -/
def Obligations.TickCountsDown : Prop :=
  ∀ (s : State) (rest : List HostEvent), s.hostEvents = .tick :: rest →
    ∃ t, step s = .next t ∧ t.hostEvents = rest ∧
      (s.fault ≠ none → Frame [.schedule] s t) ∧
      (s.fault = none →
        Frame [.delayTimer, .soundTimer, .displayWait, .schedule] s t ∧
        t.dt.toNat = s.dt.toNat - 1 ∧ t.st.toNat = s.st.toNat - 1 ∧ t.displayWait = false)

/-- `KeyEvent(k, pressed)`: without a fault it sets `key_state[k]`, and only a released-to-pressed transition
while `Armed` captures the key; the first captured key is kept (42_control_flow.md section 4 and
60_exceptions.md section 2, R181 and R272: the spec's D18, D37). -/
def Obligations.KeyEventsDriveTheWait : Prop :=
  ∀ (s : State) (k : KeyIdx) (pressed : Bool) (rest : List HostEvent),
    s.hostEvents = .keyEvent k pressed :: rest →
    ∃ t, step s = .next t ∧ t.hostEvents = rest ∧
      (s.fault ≠ none → Frame [.schedule] s t) ∧
      (s.fault = none →
        Frame [.keys, .keyWait, .schedule] s t ∧
        (∀ j : KeyIdx, t.keyState[j.val] = if j = k then pressed else s.keyState[j.val]) ∧
        (s.keyWait = .armed → pressed = true → s.keyState[k.val] = false → t.keyWait = .captured k) ∧
        (s.keyWait = .armed → pressed = false ∨ s.keyState[k.val] = true → t.keyWait = .armed) ∧
        (s.keyWait ≠ .armed → t.keyWait = s.keyWait))

/-- `DisplayAck()` clears `draw_flag` and changes nothing else, in every state (R274: the spec's D38); `Load(rom)`
before the first cycle, once, with a ROM that fits, copies it to 0x200 and changes nothing else, and otherwise is
refused (20_memory.md section 5, R87: the spec's D32; log 7). -/
def Obligations.AckAndLoad : Prop :=
  ∀ (s : State) (rest : List HostEvent),
    (s.hostEvents = .displayAck :: rest →
      ∃ t, step s = .next t ∧ t.hostEvents = rest ∧ t.drawFlag = false ∧
        Frame [.drawFlag, .schedule] s t) ∧
    ∀ rom : List Byte, s.hostEvents = .load rom :: rest →
      (s.lastOutcome = none → s.romLoaded = false → rom.length + 0x200 ≤ s.cfg.cap →
        ∃ t, step s = .next t ∧ t.hostEvents = rest ∧ t.romLoaded = true ∧
          Frame [.memory, .romLoaded, .schedule] s t ∧
          (∀ k, k < rom.length → t.readByte (0x200 + k) = rom.getD k 0) ∧
          (∀ a, a < 0x200 ∨ 0x200 + rom.length ≤ a → t.readByte a = s.readByte a)) ∧
      (s.lastOutcome = none → s.romLoaded = false → s.cfg.cap < rom.length + 0x200 →
        step s = .refused .romTooLarge) ∧
      (s.lastOutcome ≠ none ∨ s.romLoaded = true → step s = .refused .loadNotAllowed)

/-- `tone = (ST > 0)` (60_exceptions.md R282). -/
def Obligations.ToneFollowsSoundTimer : Prop :=
  ∀ s : State, s.outputs.tone = true ↔ s.st ≠ 0

/-! ### Whole-machine rules -/

/-- The parameters of 10_state.md R51 never change: the variant (and with it the profile), the fonts, FONT_HI_BASE and
the policies (the spec's D1, D29; for the variant also 00_scope.md R3). That they are data in `State.cfg` is the
model's choice, log 1. -/
def Obligations.ParametersNeverChange : Prop :=
  ∀ s t : State, step s = .next t → t.cfg = s.cfg

/-- No transition changes a byte below 0x200: the fonts are constant (20_memory.md section 3, R80, from the
spec's D8). -/
def Obligations.FontsNeverChange : Prop :=
  ∀ s t : State, step s = .next t → ∀ a, a < 0x200 → t.readByte a = s.readByte a

/-- `I < CAP` is kept by every transition, whatever else the state holds, for parameters of the right sizes
(10_state.md section 2, R34: the spec's D14, D15). -/
def Obligations.IndexStaysBelowCap : Prop :=
  ∀ s t : State, s.cfg.Wf → s.i.toNat < s.cfg.cap → step s = .next t → t.i.toNat < s.cfg.cap

/-- Who writes the display state: `gfx`, `draw_flag` and `hires_flag` change only by the display family,
`hires_flag` only by `00FE`/`00FF`, `display_wait` only by `DXYN`; and an instruction never clears `draw_flag`
(43_display.md section 5, R204: the spec's D19, D21, D22, D24). -/
def Obligations.DisplayWriters : Prop :=
  ∀ (i : Instr) (s t : State), exec i s = .next t →
    (t.hiresFlag ≠ s.hiresFlag → i = .low ∨ i = .high) ∧
    (t.displayWait ≠ s.displayWait → (∃ x y n, i = .drw x y n) ∧ t.displayWait = true) ∧
    (s.drawFlag = true → t.drawFlag = true) ∧
    ((t.gfx ≠ s.gfx ∨ t.drawFlag ≠ s.drawFlag) →
      match i with
      | .cls | .drw _ _ _ | .scd _ | .scu _ | .scr | .scl | .low | .high => True
      | _ => False)

/-- Who writes the rest: the stack only `2NNN` and `00EE` (10_state.md R39), the user registers only `FX75`
(R48), DT only `FX15` and ST only `FX18` (40_cycle.md R116, 60_exceptions.md R286), `key_wait` only `FX0A`
(R46), `key_state`, `romLoaded` and the schedule no instruction, memory only `FX33` and `FX55` (20_memory.md
R72). -/
def Obligations.StateWriters : Prop :=
  ∀ (i : Instr) (s t : State), exec i s = .next t →
    t.keyState = s.keyState ∧ t.romLoaded = s.romLoaded ∧ t.hostEvents = s.hostEvents ∧
    (t.sp ≠ s.sp ∨ t.stack ≠ s.stack → i = .ret ∨ ∃ nnn, i = .call nnn) ∧
    (t.userRegs ≠ s.userRegs → ∃ x, i = .storeUser x) ∧
    (t.dt ≠ s.dt → ∃ x, i = .ldDtVx x) ∧
    (t.st ≠ s.st → ∃ x, i = .ldStVx x) ∧
    (t.keyWait ≠ s.keyWait → ∃ x, i = .ldVxK x) ∧
    (t.i ≠ s.i → match i with
      | .ldI _ | .addI _ | .ldF _ | .ldHf _ => True
      | .storeRegs _ | .loadRegs _ => s.cfg.variant ≠ .schip
      | _ => False) ∧
    ((∃ a, t.readByte a ≠ s.readByte a) → ∃ x, i = .ldB x ∨ i = .storeRegs x)

/-- Who writes VF: the flag writers of 10_state.md R31 (the logic ops on CHIP8 only), and the instructions that
name `V[15]` as a destination. -/
def Obligations.VfWriters : Prop :=
  ∀ (i : Instr) (s t : State), exec i s = .next t → t.reg 15 ≠ s.reg 15 →
    match i with
    | .addReg _ _ | .sub _ _ | .subn _ _ | .shr _ _ | .shl _ _ | .drw _ _ _ | .addI _ => True
    | .orReg x _ | .andReg x _ | .xorReg x _ => s.cfg.variant = .chip8 ∨ x = 15
    | .ldImm x _ | .addImm x _ | .ldReg x _ | .rnd x _ | .ldVxDt x | .ldVxK x | .loadRegs x
    | .loadUser x => x = 15
    | _ => False

/-! ### Invariants -/

/-- Every transition keeps the invariant of the machine: parameters, `I < CAP`, canonical memory and
framebuffer, nothing written below 0x200, no cell off the screen, `hires_flag` 0 on CHIP8, the display wait,
the absent user registers, and the outcome after a fault. -/
def Obligations.StepKeepsInvariant : Prop :=
  ∀ s t : State, Inv s → step s = .next t → Inv t

/-- Every transition keeps the key-wait invariant: while `key_wait` is not `Idle` the opcode at `pc` is an
`FX0A` (10_state.md section 8, R46, which the spec derives). -/
def Obligations.StepKeepsKeyWait : Prop :=
  ∀ s t : State, KeyWaitInv s → step s = .next t → KeyWaitInv t

/-- Construction establishes both invariants, for every choice of parameters of the right sizes, and so does
`State.reset`. -/
def Obligations.ConstructionMeetsInvariants : Prop :=
  (∀ c : Config, c.Wf → Inv (State.construct c) ∧ KeyWaitInv (State.construct c)) ∧
  Inv State.reset ∧ KeyWaitInv State.reset

/-- The state after construction, for every choice of parameters: every register, timer, flag and stack entry is 0, and
memory holds the fonts and 0 everywhere else, the gap between the fonts included; the high font and what surrounds it
for parameters of the right sizes, which log 11 names (10_state.md section 14, R53: the spec's D4, D6, D24, D27, D36,
D38). -/
def Obligations.ConstructionValues : Prop :=
  ∀ c : Config, let s := State.construct c
    s.cfg = c ∧ (∀ r, s.reg r = 0) ∧ s.i = 0 ∧ s.pc.toNat = 0x200 ∧ s.sp.val = 0 ∧
    (∀ k : Fin 16, s.stack[k.val] = 0) ∧ s.dt = 0 ∧ s.st = 0 ∧ (∀ y x, s.gfx.get y x = false) ∧
    (∀ k : KeyIdx, s.keyState[k.val] = false) ∧ s.keyWait = .idle ∧ s.drawFlag = false ∧
    s.hiresFlag = false ∧ s.displayWait = false ∧ (∀ k, s.userReg k = 0) ∧ s.fault = none ∧
    s.faultPc = 0 ∧ s.faultInfo = 0 ∧
    (∀ a, a < 80 → s.readByte a = c.fontLo.getD a 0) ∧
    (c.variant = .chip8 → ∀ a, 80 ≤ a → s.readByte a = 0) ∧
    (c.Wf → c.variant ≠ .chip8 →
      (∀ k, k < 100 → s.readByte (c.fontHiBase.toNat + k) = c.fontHi.getD k 0) ∧
      (∀ a, 80 ≤ a → a < c.fontHiBase.toNat → s.readByte a = 0)) ∧
    (c.Wf → ∀ a, c.fontHiBase.toNat + 100 ≤ a → s.readByte a = 0)

/-! ### Arithmetic and logic (41_alu.md) -/

/-- `6XNN` and `8XY0` (41_alu.md section 2, R133 and R135: general knowledge, the spec's D30). -/
def Obligations.LoadImmediateAndCopy : Prop :=
  ∀ (s : State) (x y : RegIdx) (nn : Byte),
    HasWord (.ldImm x nn) (0x6000 + 0x100 * x.val + nn.toNat) ∧
    Completes (.ldImm x nn) s [.regs] (fun t =>
      t.reg x = nn ∧ KeepsRegsBut s t [x] ∧ Stepped s t 2) ∧
    HasWord (.ldReg x y) (0x8000 + 0x100 * x.val + 0x10 * y.val) ∧
    Completes (.ldReg x y) s [.regs] (fun t =>
      t.reg x = s.reg y ∧ KeepsRegsBut s t [x] ∧ Stepped s t 2)

/-- `7XNN`: the sum wraps modulo 256 and no carry is recorded (41_alu.md R134). -/
def Obligations.AddImmediateWraps : Prop :=
  ∀ (s : State) (x : RegIdx) (nn : Byte),
    HasWord (.addImm x nn) (0x7000 + 0x100 * x.val + nn.toNat) ∧
    Completes (.addImm x nn) s [.regs] (fun t =>
      (t.reg x).toNat = ((s.reg x).toNat + nn.toNat) % 256 ∧ KeepsRegsBut s t [x] ∧ Stepped s t 2)

/-- `8XY1`, `8XY2`, `8XY3`: bit by bit, and on CHIP8 only VF ends 0, even when it is the destination
(41_alu.md R132, R136, R137, R138; that the 0 outlives a result in VF is the write order of R131, the spec's D12). -/
def Obligations.LogicOperations : Prop :=
  ∀ (s : State) (x y : RegIdx),
    let post := fun (bit : Bool → Bool → Bool) (t : State) =>
      (s.cfg.variant = .chip8 → t.reg 15 = 0) ∧
      (s.cfg.variant ≠ .chip8 ∨ x ≠ 15 → ∀ k, k < 8 →
        (t.reg x).getLsbD k = bit ((s.reg x).getLsbD k) ((s.reg y).getLsbD k)) ∧
      KeepsRegsBut s t (if s.cfg.variant = .chip8 then [x, 15] else [x]) ∧ Stepped s t 2
    HasWord (.orReg x y) (0x8001 + 0x100 * x.val + 0x10 * y.val) ∧
    Completes (.orReg x y) s [.regs] (post or) ∧
    HasWord (.andReg x y) (0x8002 + 0x100 * x.val + 0x10 * y.val) ∧
    Completes (.andReg x y) s [.regs] (post and) ∧
    HasWord (.xorReg x y) (0x8003 + 0x100 * x.val + 0x10 * y.val) ∧
    Completes (.xorReg x y) s [.regs] (post xor)

/-- `8XY4`: the sum modulo 256, and VF is 1 iff the exact sum exceeds 255 (41_alu.md R139), written last, so that it
is what VF holds where `X = 15` (R131: the spec's D12). -/
def Obligations.AddRegisterCarries : Prop :=
  ∀ (s : State) (x y : RegIdx),
    HasWord (.addReg x y) (0x8004 + 0x100 * x.val + 0x10 * y.val) ∧
    Completes (.addReg x y) s [.regs] (fun t =>
      (x ≠ 15 → (t.reg x).toNat = ((s.reg x).toNat + (s.reg y).toNat) % 256) ∧
      t.reg 15 = (if (s.reg x).toNat + (s.reg y).toNat > 255 then 1 else 0) ∧
      KeepsRegsBut s t [x, 15] ∧ Stepped s t 2)

/-- `8XY5` and `8XY7`: the difference modulo 256, and VF is 1 iff no borrow (41_alu.md R140, R142), written last, so
that it is what VF holds where `X = 15` (R131: the spec's D12). -/
def Obligations.SubtractsBorrow : Prop :=
  ∀ (s : State) (x y : RegIdx),
    HasWord (.sub x y) (0x8005 + 0x100 * x.val + 0x10 * y.val) ∧
    Completes (.sub x y) s [.regs] (fun t =>
      (x ≠ 15 → ((t.reg x).toNat : Int) = ((s.reg x).toNat - (s.reg y).toNat : Int) % 256) ∧
      t.reg 15 = (if (s.reg x).toNat ≥ (s.reg y).toNat then 1 else 0) ∧
      KeepsRegsBut s t [x, 15] ∧ Stepped s t 2) ∧
    HasWord (.subn x y) (0x8007 + 0x100 * x.val + 0x10 * y.val) ∧
    Completes (.subn x y) s [.regs] (fun t =>
      (x ≠ 15 → ((t.reg x).toNat : Int) = ((s.reg y).toNat - (s.reg x).toNat : Int) % 256) ∧
      t.reg 15 = (if (s.reg y).toNat ≥ (s.reg x).toNat then 1 else 0) ∧
      KeepsRegsBut s t [x, 15] ∧ Stepped s t 2)

/-- `8XY6` and `8XYE`: the source is `V[X]` on SCHIP and `V[Y]` elsewhere; VF is the bit shifted out (41_alu.md R141,
R143), written last, so that it is what VF holds where `X = 15` (R131: the spec's D12). -/
def Obligations.ShiftsSelectSource : Prop :=
  ∀ (s : State) (x y : RegIdx),
    let src := if s.cfg.variant = .schip then (s.reg x).toNat else (s.reg y).toNat
    HasWord (.shr x y) (0x8006 + 0x100 * x.val + 0x10 * y.val) ∧
    Completes (.shr x y) s [.regs] (fun t =>
      (x ≠ 15 → (t.reg x).toNat = src / 2) ∧ (t.reg 15).toNat = src % 2 ∧
      KeepsRegsBut s t [x, 15] ∧ Stepped s t 2) ∧
    HasWord (.shl x y) (0x800E + 0x100 * x.val + 0x10 * y.val) ∧
    Completes (.shl x y) s [.regs] (fun t =>
      (x ≠ 15 → (t.reg x).toNat = src * 2 % 256) ∧ (t.reg 15).toNat = src / 128 ∧
      KeepsRegsBut s t [x, 15] ∧ Stepped s t 2)

/-- `CXNN`: some byte is drawn and masked, a fresh draw each time; the statement holds whatever the draws are
(41_alu.md section 2, R144: the spec's D29, D30; log 8). -/
def Obligations.RandomIsMasked : Prop :=
  ∀ (s : State) (x : RegIdx) (nn : Byte),
    HasWord (.rnd x nn) (0xC000 + 0x100 * x.val + nn.toNat) ∧
    Completes (.rnd x nn) s [.regs, .draws] (fun t =>
      (∀ k, k < 8 → (t.reg x).getLsbD k = ((Config.rngByte s.rngDraws).getLsbD k && nn.getLsbD k)) ∧
      t.rngDraws = s.rngDraws + 1 ∧ KeepsRegsBut s t [x] ∧ Stepped s t 2)

/-! ### Control flow (42_control_flow.md) -/

/-- `1NNN`: `pc` is the target, odd or even, and nothing else changes, so that a jump to its own address changes at most
the outcome; a target below 0x200 faults at the next fetch (42_control_flow.md section 2, R160; the fault at the fetch
and its record are R111: the spec's D9, D27). -/
def Obligations.JumpGoesToTarget : Prop :=
  ∀ (s : State) (nnn : Addr12),
    HasWord (.jp nnn) (0x1000 + nnn.toNat) ∧
    Completes (.jp nnn) s [] (fun t =>
      JumpedTo t nnn.toNat ∧
      (nnn.toNat = s.pc.toNat → Frame [.outcome] s t) ∧
      (GatesOpen s → nnn.toNat < 0x200 →
        ∃ u, step t = .next u ∧ TakesFault t.dequeue u .pcOutOfRange nnn.toNat))

/-- `0NNN` is a no-op, and `BNNN` adds `V[0]`, or on SCHIP `V[X]` with `X = NNN[11:8]`, unmasked
(42_control_flow.md section 2, R165 and R166: the spec's D10, D26). -/
def Obligations.NoOpAndOffsetJump : Prop :=
  ∀ (s : State) (nnn : Addr12) (x : RegIdx), x.val = nnn.toNat / 256 →
    HasWord (.sys nnn) nnn.toNat ∧
    Completes (.sys nnn) s [] (fun t => Stepped s t 2) ∧
    HasWord (.jpOffset nnn) (0xB000 + nnn.toNat) ∧
    Completes (.jpOffset nnn) s [] (fun t =>
      JumpedTo t (nnn.toNat +
        (if s.cfg.variant = .schip then (s.reg x).toNat else (s.reg 0).toNat)))

/-- `2NNN`: with `sp < 16` it pushes its own address; with a full stack it raises StackOverflow with the target
(42_control_flow.md section 2, R161 and R163: the spec's D25). -/
def Obligations.CallPushes : Prop :=
  ∀ (s : State) (nnn : Addr12),
    HasWord (.call nnn) (0x2000 + nnn.toNat) ∧
    (s.sp.val < 16 →
      Completes (.call nnn) s [.stack] (fun t =>
        t.sp.val = s.sp.val + 1 ∧
        (∀ k : Fin 16, t.stack[k.val] = if k.val = s.sp.val then s.pc else s.stack[k.val]) ∧
        JumpedTo t nnn.toNat)) ∧
    (s.sp.val = 16 → Faults (.call nnn) s .stackOverflow nnn.toNat)

/-- `00EE`: with entries it pops and goes to the popped value plus 2; with an empty stack it raises StackUnderflow
(42_control_flow.md section 2, R162; the record taken is the spec's D27, the fault as a next state log 5). That the
popped entry is not read again is DeadStackEntriesNotRead. -/
def Obligations.ReturnPops : Prop :=
  ∀ s : State,
    HasWord .ret 0x00EE ∧
    (∀ k : Fin 16, s.sp.val = k.val + 1 →
      Completes .ret s [.stack] (fun t =>
        t.sp.val = k.val ∧ t.stack = s.stack ∧ JumpedTo t ((s.stack[k.val].toNat + 2) % 65536))) ∧
    (s.sp.val = 0 → Faults .ret s .stackUnderflow 0)

/-- Call then return: whatever the callee does to the rest of the state, if it leaves `sp` and the live stack
entries as the call made them, the return resumes at the call's address plus 2 with `sp` as before the call
(42_control_flow.md section 2, R164, which the spec derives). -/
def Obligations.CallThenReturn : Prop :=
  ∀ (s t u : State) (nnn : Addr12),
    s.sp.val < 16 → exec (.call nnn) s = .next t → u.sp = t.sp →
      (∀ k : Fin 16, k.val < t.sp.val → u.stack[k.val] = t.stack[k.val]) →
        Completes .ret u [.stack] (fun w =>
          w.sp = s.sp ∧ JumpedTo w ((s.pc.toNat + 2) % 65536))

/-- `3XNN` and `4XNN`: 4 when the condition holds, else 2, and nothing else changes (42_control_flow.md R170, R171). -/
def Obligations.ImmediateSkips : Prop :=
  ∀ (s : State) (x : RegIdx) (nn : Byte),
    HasWord (.seImm x nn) (0x3000 + 0x100 * x.val + nn.toNat) ∧
    Completes (.seImm x nn) s [] (fun t => Stepped s t (if s.reg x = nn then 4 else 2)) ∧
    HasWord (.sneImm x nn) (0x4000 + 0x100 * x.val + nn.toNat) ∧
    Completes (.sneImm x nn) s [] (fun t => Stepped s t (if s.reg x = nn then 2 else 4))

/-- `5XY0` and `9XY0` (42_control_flow.md section 3, R172 and R173: the spec's D10 on their low nibble). -/
def Obligations.RegisterSkips : Prop :=
  ∀ (s : State) (x y : RegIdx),
    HasWord (.seReg x y) (0x5000 + 0x100 * x.val + 0x10 * y.val) ∧
    Completes (.seReg x y) s [] (fun t => Stepped s t (if s.reg x = s.reg y then 4 else 2)) ∧
    HasWord (.sneReg x y) (0x9000 + 0x100 * x.val + 0x10 * y.val) ∧
    Completes (.sneReg x y) s [] (fun t => Stepped s t (if s.reg x = s.reg y then 2 else 4))

/-- `EX9E` and `EXA1` test the key `V[X]` names; above 0xF they raise KeyIndexOutOfRange with `V[X]` under the
policy `Fault`, and use the low nibble under `LowNibble` (42_control_flow.md section 3, R174 to R176: the spec's
D17). -/
def Obligations.KeySkips : Prop :=
  ∀ (s : State) (x : RegIdx) (k : KeyIdx), k.val = (s.reg x).toNat % 16 →
    HasWord (.skp x) (0xE09E + 0x100 * x.val) ∧ HasWord (.sknp x) (0xE0A1 + 0x100 * x.val) ∧
    ((s.reg x).toNat ≤ 0xF ∨ s.cfg.keyIndexPolicy = .lowNibble →
      Completes (.skp x) s [] (fun t =>
        Stepped s t (if s.keyState[k.val] = true then 4 else 2)) ∧
      Completes (.sknp x) s [] (fun t =>
        Stepped s t (if s.keyState[k.val] = true then 2 else 4))) ∧
    ((s.reg x).toNat > 0xF → s.cfg.keyIndexPolicy = .fault →
      Faults (.skp x) s .keyIndexOutOfRange (s.reg x).toNat ∧
      Faults (.sknp x) s .keyIndexOutOfRange (s.reg x).toNat)

/-- `FX0A`: it arms the wait, waits at the same `pc`, or writes the captured key and moves on
(42_control_flow.md R180). -/
def Obligations.KeyWaitSteps : Prop :=
  ∀ (s : State) (x : RegIdx),
    HasWord (.ldVxK x) (0xF00A + 0x100 * x.val) ∧
    (s.keyWait = .idle ∨ s.keyWait = .armed →
      Completes (.ldVxK x) s [.keyWait] (fun t =>
        t.keyWait = .armed ∧ t.pc = s.pc ∧ t.lastOutcome = some .waitingKey)) ∧
    (∀ k, s.keyWait = .captured k →
      Completes (.ldVxK x) s [.keyWait, .regs] (fun t =>
        (t.reg x).toNat = k.val ∧ KeepsRegsBut s t [x] ∧ t.keyWait = .idle ∧ Stepped s t 2))

/-! ### Display (43_display.md) -/

/-- `00E0` unsets every cell and sets `draw_flag` (43_display.md R190). -/
def Obligations.ClearScreen : Prop :=
  ∀ s : State,
    HasWord .cls 0x00E0 ∧
    Completes .cls s [.framebuffer, .drawFlag] (fun t =>
      (∀ yy xx, t.gfx.get yy xx = false) ∧ t.drawFlag = true ∧ Stepped s t 2)

/-- `DXYN`: a cell is inverted iff a set bit of the sprite falls on it, VF is 1 iff one of those cells was set,
`draw_flag` is set, the display wait begins after a low-resolution draw on CHIP8 and SCHIP, and nothing else
changes; with a sprite byte at or above CAP it raises MemOutOfRange at the first such address
(43_display.md section 2, R192 to R195, and R117: the spec's D7, D19, D20, D24). -/
def Obligations.DrawSprite : Prop :=
  ∀ (s : State) (x y : RegIdx) (n : Count),
    HasWord (.drw x y n) (0xD000 + 0x100 * x.val + 0x10 * y.val + n.val) ∧
    (SpriteReadable s n →
      Completes (.drw x y n) s [.framebuffer, .drawFlag, .displayWait, .regs] (fun t =>
        (∀ yy xx, t.gfx.get yy xx = true ↔ ¬(s.gfx.get yy xx = true ↔ Covers s x y n yy xx)) ∧
        ((∃ yy xx, Covers s x y n yy xx ∧ s.gfx.get yy xx = true) → t.reg 15 = 1) ∧
        ((¬∃ yy xx, Covers s x y n yy xx ∧ s.gfx.get yy xx = true) → t.reg 15 = 0) ∧
        KeepsRegsBut s t [15] ∧ t.drawFlag = true ∧
        (t.displayWait = true ↔ s.displayWait = true ∨
          s.cfg.variant = .chip8 ∨ (s.cfg.variant = .schip ∧ s.hiresFlag = false)) ∧
        Stepped s t 2)) ∧
    (¬SpriteReadable s n → Faults (.drw x y n) s .memOutOfRange (max s.i.toNat s.cfg.cap))

/-- The same draw twice, with the coordinates, `I`, the sprite bytes, the resolution and the screen the second draw finds
as the first had or left them, and whatever happened to the rest of the state in between (ticks must intervene where
the first draw starts a display wait), restores every cell, whatever was on the screen; if the screen was clear before,
the first draw leaves VF 0 and exactly the sprite's visible cells set, and the second leaves VF 1 iff there is such a
cell (43_display.md section 2, R196, which the spec derives; 90_conflicts.md C5). -/
def Obligations.DrawTwiceRestores : Prop :=
  ∀ (s t u : State) (x y : RegIdx) (n : Count),
    SpriteReadable s n → exec (.drw x y n) s = .next t →
      u.cfg = s.cfg → u.hiresFlag = s.hiresFlag → u.i = s.i → u.reg x = s.reg x → u.reg y = s.reg y →
        (∀ a, s.i.toNat ≤ a → a < s.i.toNat + spriteBytes s n → u.readByte a = s.readByte a) →
          (∀ yy xx, u.gfx.get yy xx = t.gfx.get yy xx) →
            ∃ w, exec (.drw x y n) u = .next w ∧ w.lastOutcome = some .stepped ∧
              (∀ yy xx, w.gfx.get yy xx = s.gfx.get yy xx) ∧
              ((∀ yy xx, s.gfx.get yy xx = false) →
                t.reg 15 = 0 ∧ (∀ yy xx, t.gfx.get yy xx = true ↔ Covers s x y n yy xx) ∧
                ((∃ yy xx, Covers s x y n yy xx) → w.reg 15 = 1) ∧
                ((¬∃ yy xx, Covers s x y n yy xx) → w.reg 15 = 0))

/-- `00FE` and `00FF` on SCHIP and XOCHIP: the resolution, the clear on XOCHIP only, and `draw_flag`
(43_display.md section 3, R197 and R198: the spec's D22). -/
def Obligations.ResolutionSwitch : Prop :=
  ∀ s : State, s.cfg.variant ≠ .chip8 →
    let post := fun (high : Bool) (t : State) =>
      t.hiresFlag = high ∧ t.drawFlag = true ∧
      (s.cfg.variant = .xochip → ∀ yy xx, t.gfx.get yy xx = false) ∧
      (s.cfg.variant = .schip → t.gfx = s.gfx) ∧ Stepped s t 2
    HasWord .low 0x00FE ∧ Completes .low s [.resolution, .framebuffer, .drawFlag] (post false) ∧
    HasWord .high 0x00FF ∧ Completes .high s [.resolution, .framebuffer, .drawFlag] (post true)

/-- The four scrolls on SCHIP and XOCHIP: every cell of the effective surface takes its source's value, or 0 where
the source lies outside the surface; cells outside the surface keep theirs (43_display.md section 4, R199 to
R203: the spec's D21; encodings from general knowledge). -/
def Obligations.ScrollsMoveTheSurface : Prop :=
  ∀ (s : State) (n : Count), s.cfg.variant ≠ .chip8 →
    let post := fun (source : Nat → Nat → Bool) (t : State) =>
      (∀ yy xx, t.gfx.get yy xx =
        if yy < surfaceHeight s ∧ xx < surfaceWidth s then source yy xx else s.gfx.get yy xx) ∧
      t.drawFlag = true ∧ Stepped s t 2
    HasWord (.scd n) (0x00C0 + n.val) ∧
    Completes (.scd n) s [.framebuffer, .drawFlag]
      (post fun yy xx => decide (n.val ≤ yy) && s.gfx.get (yy - n.val) xx) ∧
    HasWord (.scu n) (0x00D0 + n.val) ∧
    Completes (.scu n) s [.framebuffer, .drawFlag]
      (post fun yy xx => decide (yy + n.val < surfaceHeight s) && s.gfx.get (yy + n.val) xx) ∧
    HasWord .scr 0x00FB ∧
    Completes .scr s [.framebuffer, .drawFlag]
      (post fun yy xx => decide (4 ≤ xx) && s.gfx.get yy (xx - 4)) ∧
    HasWord .scl 0x00FC ∧
    Completes .scl s [.framebuffer, .drawFlag]
      (post fun yy xx => decide (xx + 4 < surfaceWidth s) && s.gfx.get yy (xx + 4))

/-- On CHIP8 the SCHIP/XOCHIP instructions, which the decoder never gives there, are the `0NNN` no-op their words
are, and `FX30` raises IllegalOpcode with its word (30_encoding.md sections 2 and 3, R95 and R99: the spec's D11; the
meaning of `exec` there is the model's choice, log 13). -/
def Obligations.ExtendedOnChip8 : Prop :=
  ∀ (s : State) (n : Count) (x : RegIdx), s.cfg.variant = .chip8 →
    (∀ i ∈ [Instr.scd n, .scu n, .scr, .scl, .low, .high],
      Completes i s [] (fun t => Stepped s t 2)) ∧
    Faults (.ldHf x) s .illegalOpcode (0xF030 + 0x100 * x.val)

/-! ### Address register and transfers (44_memory_transfer.md) -/

/-- `ANNN` and `FX1E`: the sum wraps at CAP and sets VF 1 on overflow; without overflow VF is as the policy says
(44_memory_transfer.md section 1, R220 to R222: the spec's D13, D14, D30). -/
def Obligations.AddressRegister : Prop :=
  ∀ (s : State) (nnn : Addr12) (x : RegIdx),
    let sum := s.i.toNat + (s.reg x).toNat
    HasWord (.ldI nnn) (0xA000 + nnn.toNat) ∧
    Completes (.ldI nnn) s [.index] (fun t => t.i.toNat = nnn.toNat ∧ Stepped s t 2) ∧
    HasWord (.addI x) (0xF01E + 0x100 * x.val) ∧
    Completes (.addI x) s [.index, .regs] (fun t =>
      t.i.toNat = (if sum ≥ s.cfg.cap then sum - s.cfg.cap else sum) ∧
      (sum ≥ s.cfg.cap → t.reg 15 = 1) ∧
      (sum < s.cfg.cap → s.cfg.fx1eVfNoOvf = .unchanged → t.reg 15 = s.reg 15) ∧
      (sum < s.cfg.cap → s.cfg.fx1eVfNoOvf = .zero → t.reg 15 = 0) ∧
      KeepsRegsBut s t [15] ∧ Stepped s t 2)

/-- `FX29` and, on SCHIP and XOCHIP, `FX30`: the glyph's address from the low nibble; above digit 9 `FX30` changes
nothing but `pc` (44_memory_transfer.md section 2, R223 to R225: the spec's D6, D16). -/
def Obligations.GlyphAddresses : Prop :=
  ∀ (s : State) (x : RegIdx),
    let d := (s.reg x).toNat % 16
    HasWord (.ldF x) (0xF029 + 0x100 * x.val) ∧
    Completes (.ldF x) s [.index] (fun t => t.i.toNat = 5 * d ∧ Stepped s t 2) ∧
    HasWord (.ldHf x) (0xF030 + 0x100 * x.val) ∧
    (s.cfg.variant ≠ .chip8 →
      Completes (.ldHf x) s [.index] (fun t =>
        (d ≤ 9 → t.i.toNat = (s.cfg.fontHiBase.toNat + 10 * d) % 65536) ∧
        (d > 9 → t.i = s.i) ∧ Stepped s t 2))

/-- `FX33`: hundreds, tens, ones at `I`, `I+1`, `I+2`, every other byte as before; a byte below 0x200 raises
ProtectedWrite, one at or above CAP MemOutOfRange, with the first such address
(44_memory_transfer.md section 3, R230, and 20_memory.md R77, R78: the spec's D7, D8, D27). -/
def Obligations.BcdStore : Prop :=
  ∀ (s : State) (x : RegIdx),
    let v := (s.reg x).toNat
    HasWord (.ldB x) (0xF033 + 0x100 * x.val) ∧
    (0x200 ≤ s.i.toNat → s.i.toNat + 3 ≤ s.cfg.cap →
      Completes (.ldB x) s [.memory] (fun t =>
        (t.readByte (s.dataAddr 0)).toNat = v / 100 ∧
        (t.readByte (s.dataAddr 1)).toNat = v / 10 % 10 ∧
        (t.readByte (s.dataAddr 2)).toNat = v % 10 ∧
        (∀ a, a ≠ s.dataAddr 0 → a ≠ s.dataAddr 1 → a ≠ s.dataAddr 2 →
          t.readByte a = s.readByte a) ∧
        Stepped s t 2)) ∧
    (s.i.toNat < 0x200 → Faults (.ldB x) s .protectedWrite s.i.toNat) ∧
    (0x200 ≤ s.i.toNat → s.cfg.cap < s.i.toNat + 3 →
      Faults (.ldB x) s .memOutOfRange (max s.i.toNat s.cfg.cap))

/-- `FX55`: `V[0..X]` at `I`, every other byte as before, and `I` advances by `X + 1` modulo CAP but on SCHIP; the
faults are those of `FX33` (44_memory_transfer.md section 4, R231 and R232: the spec's D7, D8, D15). -/
def Obligations.StoreRegisters : Prop :=
  ∀ (s : State) (x : RegIdx),
    HasWord (.storeRegs x) (0xF055 + 0x100 * x.val) ∧
    (0x200 ≤ s.i.toNat → s.i.toNat + x.val + 1 ≤ s.cfg.cap →
      Completes (.storeRegs x) s [.memory, .index] (fun t =>
        (∀ k : RegIdx, k ≤ x → t.readByte (s.dataAddr k.val) = s.reg k) ∧
        (∀ a, a < s.dataAddr 0 ∨ s.dataAddr x.val < a → t.readByte a = s.readByte a) ∧
        t.i.toNat = (if s.cfg.variant = .schip then s.i.toNat
          else (s.i.toNat + x.val + 1) % s.cfg.cap) ∧
        Stepped s t 2)) ∧
    (s.i.toNat < 0x200 → Faults (.storeRegs x) s .protectedWrite s.i.toNat) ∧
    (0x200 ≤ s.i.toNat → s.cfg.cap < s.i.toNat + x.val + 1 →
      Faults (.storeRegs x) s .memOutOfRange (max s.i.toNat s.cfg.cap))

/-- `FX65`: `V[0..X]` from `I`, the other registers as before, and `I` advances as after `FX55`; a byte at or above
CAP raises MemOutOfRange and loads nothing (44_memory_transfer.md section 4, R232 and R233: the spec's D7, D15). -/
def Obligations.LoadRegisters : Prop :=
  ∀ (s : State) (x : RegIdx),
    HasWord (.loadRegs x) (0xF065 + 0x100 * x.val) ∧
    (s.i.toNat + x.val + 1 ≤ s.cfg.cap →
      Completes (.loadRegs x) s [.regs, .index] (fun t =>
        (∀ k : RegIdx, t.reg k = if k ≤ x then s.readByte (s.dataAddr k.val) else s.reg k) ∧
        t.i.toNat = (if s.cfg.variant = .schip then s.i.toNat
          else (s.i.toNat + x.val + 1) % s.cfg.cap) ∧
        Stepped s t 2)) ∧
    (s.cfg.cap < s.i.toNat + x.val + 1 →
      Faults (.loadRegs x) s .memOutOfRange (max s.i.toNat s.cfg.cap))

/-- Store then load: with the same `X` and `I`, whatever happened to the rest of the state in between, if the stored
bytes are still there the registers come back (44_memory_transfer.md section 4, R234, which the spec derives). -/
def Obligations.StoreThenLoadRestores : Prop :=
  ∀ (s t u : State) (x : RegIdx),
    0x200 ≤ s.i.toNat → s.i.toNat + x.val + 1 ≤ s.cfg.cap →
      exec (.storeRegs x) s = .next t → u.cfg = s.cfg → u.i = s.i →
        (∀ a, s.i.toNat ≤ a → a ≤ s.i.toNat + x.val → u.readByte a = t.readByte a) →
          ∃ w, exec (.loadRegs x) u = .next w ∧ w.lastOutcome = some .stepped ∧
            (∀ k : RegIdx, k ≤ x → w.reg k = s.reg k) ∧ w.i = t.i

/-- `FX75` and `FX85`: in range (`X < user_register_count`: 0, 8, 16) they copy `V[0..X]` to or from the user
registers; out of range they change nothing but `pc` (44_memory_transfer.md section 5, R235 to R237: the spec's
D2, D11). -/
def Obligations.UserRegisterTransfers : Prop :=
  ∀ (s : State) (x : RegIdx),
    let inRange := match s.cfg.variant with
      | .chip8 => False
      | .schip => x.val < 8
      | .xochip => True
    HasWord (.storeUser x) (0xF075 + 0x100 * x.val) ∧ HasWord (.loadUser x) (0xF085 + 0x100 * x.val) ∧
    (inRange →
      Completes (.storeUser x) s [.userRegs] (fun t =>
        (∀ k, t.userReg k = if k ≤ x then s.reg k else s.userReg k) ∧ Stepped s t 2) ∧
      Completes (.loadUser x) s [.regs] (fun t =>
        (∀ k, t.reg k = if k ≤ x then s.userReg k else s.reg k) ∧ Stepped s t 2)) ∧
    (¬inRange →
      Completes (.storeUser x) s [] (fun t => Stepped s t 2) ∧
      Completes (.loadUser x) s [] (fun t => Stepped s t 2))

/-! ### Timers (45_timers.md) -/

/-- `FX07`, `FX15`, `FX18` (45_timers.md, R250 to R252: general knowledge, the spec's D30). -/
def Obligations.TimerInstructions : Prop :=
  ∀ (s : State) (x : RegIdx),
    HasWord (.ldVxDt x) (0xF007 + 0x100 * x.val) ∧
    Completes (.ldVxDt x) s [.regs] (fun t =>
      t.reg x = s.dt ∧ KeepsRegsBut s t [x] ∧ Stepped s t 2) ∧
    HasWord (.ldDtVx x) (0xF015 + 0x100 * x.val) ∧
    Completes (.ldDtVx x) s [.delayTimer] (fun t => t.dt = s.reg x ∧ Stepped s t 2) ∧
    HasWord (.ldStVx x) (0xF018 + 0x100 * x.val) ∧
    Completes (.ldStVx x) s [.soundTimer] (fun t => t.st = s.reg x ∧ Stepped s t 2)

/-! ### The entries above the stack pointer (42_control_flow.md) -/

/-- What the stack holds at and above `sp` is never read again: two states that differ only there take the same next
transition, and after it they again differ only at and above `sp` (42_control_flow.md section 2, R162: a popped entry
keeps its value and is not read unless a later call overwrites it first). -/
def Obligations.DeadStackEntriesNotRead : Prop :=
  ∀ (s t : State) (other : Vector Word 16),
    (∀ k : Fin 16, k.val < s.sp.val → other[k.val] = s.stack[k.val]) → step s = .next t →
      ∃ u, step (s.withStack other) = .next u ∧ Frame [.stack] t u ∧ u.sp = t.sp ∧
        ∀ k : Fin 16, k.val < t.sp.val → u.stack[k.val] = t.stack[k.val]
end

