-- ==== Sys2Proof/Laws/Decode.lean ====
section
/-! SUPPORT. The fields of a word as numbers, and the fields of an encoded word: they are the operands it was
built from (spec/30_encoding.md R91, R92). -/

namespace Sys2Proof

@[simp] theorem nibbleToFin_finToNibble (k : Fin 16) : nibbleToFin (finToNibble k) = k := by
  revert k; decide

@[simp] theorem finToNibble_nibbleToFin (b : Nibble) : finToNibble (nibbleToFin b) = b := by
  simp [finToNibble, nibbleToFin]

@[simp] theorem finToNibble_toNat (k : Fin 16) : (finToNibble k).toNat = k.val := by
  revert k; decide

/-! ### The fields as numbers -/

section
variable (op : Word)

theorem fieldF_toNat : (fieldF op).toNat = op.toNat / 0x1000 := by
  simp [fieldF, Nat.shiftRight_eq_div_pow]; have := op.isLt; omega

theorem bitsX_toNat : (bitsX op).toNat = op.toNat / 0x100 % 16 := by
  simp [bitsX, Nat.shiftRight_eq_div_pow]

theorem bitsY_toNat : (bitsY op).toNat = op.toNat / 0x10 % 16 := by
  simp [bitsY, Nat.shiftRight_eq_div_pow]

theorem bitsN_toNat : (bitsN op).toNat = op.toNat % 16 := by simp [bitsN]

theorem fieldNN_toNat : (fieldNN op).toNat = op.toNat % 0x100 := by simp [fieldNN]

theorem fieldNNN_toNat : (fieldNNN op).toNat = op.toNat % 0x1000 := by simp [fieldNNN]

end

/-! ### The encoder's words as numbers -/

section
variable (f n : Nibble) (x y : Fin 16) (nn : Byte) (nnn : Addr12)

theorem packXYN_toNat :
    (packXYN f x y n).toNat = f.toNat * 0x1000 + x.val * 0x100 + y.val * 0x10 + n.toNat := by
  have := f.isLt; have := n.isLt; have := x.isLt; have := y.isLt
  simp only [packXYN, BitVec.toNat_ofNat]; omega

theorem packXNN_toNat : (packXNN f x nn).toNat = f.toNat * 0x1000 + x.val * 0x100 + nn.toNat := by
  have := f.isLt; have := nn.isLt; have := x.isLt
  simp only [packXNN, BitVec.toNat_ofNat]; omega

theorem packNNN_toNat : (packNNN f nnn).toNat = f.toNat * 0x1000 + nnn.toNat := by
  have := f.isLt; have := nnn.isLt
  simp only [packNNN, BitVec.toNat_ofNat]; omega

/-! ### The fields of an encoded word -/

@[simp] theorem fieldF_packXYN : fieldF (packXYN f x y n) = f := by
  have := n.isLt; have := x.isLt; have := y.isLt
  apply BitVec.eq_of_toNat_eq; rw [fieldF_toNat, packXYN_toNat]; omega

@[simp] theorem bitsX_packXYN : bitsX (packXYN f x y n) = finToNibble x := by
  have := n.isLt; have := x.isLt; have := y.isLt
  apply BitVec.eq_of_toNat_eq; rw [bitsX_toNat, packXYN_toNat, finToNibble_toNat]; omega

@[simp] theorem bitsY_packXYN : bitsY (packXYN f x y n) = finToNibble y := by
  have := n.isLt; have := x.isLt; have := y.isLt
  apply BitVec.eq_of_toNat_eq; rw [bitsY_toNat, packXYN_toNat, finToNibble_toNat]; omega

@[simp] theorem bitsN_packXYN : bitsN (packXYN f x y n) = n := by
  have := n.isLt; have := x.isLt; have := y.isLt
  apply BitVec.eq_of_toNat_eq; rw [bitsN_toNat, packXYN_toNat]; omega

@[simp] theorem fieldF_packXNN : fieldF (packXNN f x nn) = f := by
  have := nn.isLt; have := x.isLt
  apply BitVec.eq_of_toNat_eq; rw [fieldF_toNat, packXNN_toNat]; omega

@[simp] theorem bitsX_packXNN : bitsX (packXNN f x nn) = finToNibble x := by
  have := nn.isLt; have := x.isLt
  apply BitVec.eq_of_toNat_eq; rw [bitsX_toNat, packXNN_toNat, finToNibble_toNat]; omega

@[simp] theorem fieldNN_packXNN : fieldNN (packXNN f x nn) = nn := by
  have := nn.isLt; have := x.isLt
  apply BitVec.eq_of_toNat_eq; rw [fieldNN_toNat, packXNN_toNat]; omega

@[simp] theorem fieldF_packNNN : fieldF (packNNN f nnn) = f := by
  have := nnn.isLt
  apply BitVec.eq_of_toNat_eq; rw [fieldF_toNat, packNNN_toNat]; omega

@[simp] theorem fieldNNN_packNNN : fieldNNN (packNNN f nnn) = nnn := by
  have := nnn.isLt
  apply BitVec.eq_of_toNat_eq; rw [fieldNNN_toNat, packNNN_toNat]; omega

end

/-! ### Masks as tests on fields: what a row of the opcode table asks of a word (R94) -/

/-- Four fields side by side, the first the highest. -/
def word4 (f x y n : Nibble) : Word := (f ++ x ++ y ++ n : BitVec (4 + 4 + 4 + 4))

/-- The mask of a whole field keeps it. -/
@[simp] theorem nibble_and_15 (b : Nibble) : b &&& 15#4 = b := BitVec.and_allOnes

section
variable (f x y n a b c d : Nibble) (op : Word)

theorem word4_and :
    word4 f x y n &&& word4 a b c d = word4 (f &&& a) (x &&& b) (y &&& c) (n &&& d) := by
  unfold word4
  apply BitVec.eq_of_getLsbD_eq
  intro i hi
  simp only [BitVec.getLsbD_and, BitVec.getLsbD_append]
  split <;> [rfl; split <;> [rfl; split <;> rfl]]

theorem word4_toNat :
    (word4 f x y n).toNat = f.toNat * 0x1000 + x.toNat * 0x100 + y.toNat * 0x10 + n.toNat := by
  have := f.isLt; have := x.isLt; have := y.isLt; have := n.isLt
  unfold word4
  simp only [BitVec.toNat_append]
  rw [← Nat.shiftLeft_add_eq_or_of_lt (by omega), ← Nat.shiftLeft_add_eq_or_of_lt (by omega),
    ← Nat.shiftLeft_add_eq_or_of_lt (by omega)]
  simp only [Nat.shiftLeft_eq]
  omega

/-- A word is its four fields side by side (R91). -/
theorem word4_fields : op = word4 (fieldF op) (bitsX op) (bitsY op) (bitsN op) := by
  apply BitVec.eq_of_toNat_eq
  rw [word4_toNat, fieldF_toNat, bitsX_toNat, bitsY_toNat, bitsN_toNat]; omega

theorem word4_inj : word4 f x y n = word4 a b c d ↔ f = a ∧ x = b ∧ y = c ∧ n = d := by
  constructor
  · intro h
    have h := congrArg BitVec.toNat h
    rw [word4_toNat, word4_toNat] at h
    have := f.isLt; have := x.isLt; have := y.isLt; have := n.isLt
    have := a.isLt; have := b.isLt; have := c.isLt; have := d.isLt
    refine ⟨?_, ?_, ?_, ?_⟩ <;> apply BitVec.eq_of_toNat_eq <;> omega
  · rintro ⟨rfl, rfl, rfl, rfl⟩; rfl

/-- A mask and a pattern test the fields one by one. -/
theorem mask_eq_iff (p q r s : Nibble) :
    op &&& word4 a b c d = word4 p q r s ↔
      fieldF op &&& a = p ∧ bitsX op &&& b = q ∧ bitsY op &&& c = r ∧ bitsN op &&& d = s := by
  rw [word4_fields op, word4_and, word4_inj, ← word4_fields op]

theorem packXYN_eq_word4 (i j : Fin 16) :
    packXYN f i j n = word4 f (finToNibble i) (finToNibble j) n := by
  apply BitVec.eq_of_toNat_eq
  rw [packXYN_toNat, word4_toNat, finToNibble_toNat, finToNibble_toNat]

theorem packXNN_eq_word4 (i : Fin 16) (nn : Byte) :
    packXNN f i nn = word4 f (finToNibble i) (nn.extractLsb' 4 4) (nn.extractLsb' 0 4) := by
  apply BitVec.eq_of_toNat_eq
  have := nn.isLt
  rw [packXNN_toNat, word4_toNat, finToNibble_toNat]
  simp [Nat.shiftRight_eq_div_pow]; omega

theorem packNNN_eq_word4 (nnn : Addr12) :
    packNNN f nnn =
      word4 f (nnn.extractLsb' 8 4) (nnn.extractLsb' 4 4) (nnn.extractLsb' 0 4) := by
  apply BitVec.eq_of_toNat_eq
  have := nnn.isLt
  rw [packNNN_toNat, word4_toNat]
  simp [Nat.shiftRight_eq_div_pow]; omega

/-- The low byte of a word is its last two fields. -/
theorem fieldNN_eq_iff (nn : Byte) :
    fieldNN op = nn ↔ bitsY op = nn.extractLsb' 4 4 ∧ bitsN op = nn.extractLsb' 0 4 := by
  have := nn.isLt
  rw [← BitVec.toNat_inj, ← BitVec.toNat_inj, ← BitVec.toNat_inj, fieldNN_toNat, bitsY_toNat, bitsN_toNat]
  simp [Nat.shiftRight_eq_div_pow]; omega

end

/-- The bytes of an opcode, put together big-endian, are the opcode (R73). -/
@[simp] theorem opcodeOfBytes_bytes (op : Word) :
    opcodeOfBytes (op.extractLsb' 8 8) (op.extractLsb' 0 8) = op := by
  apply BitVec.eq_of_toNat_eq
  have := op.isLt
  unfold opcodeOfBytes
  rw [BitVec.toNat_append, ← Nat.shiftLeft_add_eq_or_of_lt (BitVec.isLt _)]
  simp [Nat.shiftRight_eq_div_pow, Nat.shiftLeft_eq]; omega

/-- Decoding the bytes of an opcode is decoding the opcode. -/
theorem decode_bytesOfOpcode (v : Variant) (op : Word) (rest : List Byte) :
    decode v (bytesOfOpcode op ++ rest) =
      match decodeWord v op with
      | .ok i => .ok (i, rest)
      | .error why => .error (.illegal why op) := by
  cases h : decodeWord v op <;> simp [bytesOfOpcode, decode, h]

end Sys2Proof
end

