-- ==== Sys2Proof/Laws/State.lean ====
section
/-! SUPPORT. What each update of the state leaves in each field, and what each composed operation is as one
record update: later proofs cite these and unfold no update. -/

namespace Sys2Proof.Machine

variable (s : State)

@[simp] theorem State.withV_cfg a : (s.withV a).cfg = s.cfg := rfl
@[simp] theorem State.withV_v a : (s.withV a).v = a := rfl
@[simp] theorem State.withV_i a : (s.withV a).i = s.i := rfl
@[simp] theorem State.withV_pc a : (s.withV a).pc = s.pc := rfl
@[simp] theorem State.withV_sp a : (s.withV a).sp = s.sp := rfl
@[simp] theorem State.withV_stack a : (s.withV a).stack = s.stack := rfl
@[simp] theorem State.withV_dt a : (s.withV a).dt = s.dt := rfl
@[simp] theorem State.withV_st a : (s.withV a).st = s.st := rfl
@[simp] theorem State.withV_gfx a : (s.withV a).gfx = s.gfx := rfl
@[simp] theorem State.withV_keyState a : (s.withV a).keyState = s.keyState := rfl
@[simp] theorem State.withV_keyWait a : (s.withV a).keyWait = s.keyWait := rfl
@[simp] theorem State.withV_drawFlag a : (s.withV a).drawFlag = s.drawFlag := rfl
@[simp] theorem State.withV_hiresFlag a : (s.withV a).hiresFlag = s.hiresFlag := rfl
@[simp] theorem State.withV_displayWait a : (s.withV a).displayWait = s.displayWait := rfl
@[simp] theorem State.withV_userRegs a : (s.withV a).userRegs = s.userRegs := rfl
@[simp] theorem State.withV_fault a : (s.withV a).fault = s.fault := rfl
@[simp] theorem State.withV_faultPc a : (s.withV a).faultPc = s.faultPc := rfl
@[simp] theorem State.withV_faultInfo a : (s.withV a).faultInfo = s.faultInfo := rfl
@[simp] theorem State.withV_mem a : (s.withV a).mem = s.mem := rfl
@[simp] theorem State.withV_lastOutcome a : (s.withV a).lastOutcome = s.lastOutcome := rfl
@[simp] theorem State.withV_romLoaded a : (s.withV a).romLoaded = s.romLoaded := rfl
@[simp] theorem State.withV_rngDraws a : (s.withV a).rngDraws = s.rngDraws := rfl
@[simp] theorem State.withV_hostEvents a : (s.withV a).hostEvents = s.hostEvents := rfl

@[simp] theorem State.withI_cfg a : (s.withI a).cfg = s.cfg := rfl
@[simp] theorem State.withI_v a : (s.withI a).v = s.v := rfl
@[simp] theorem State.withI_i a : (s.withI a).i = a := rfl
@[simp] theorem State.withI_pc a : (s.withI a).pc = s.pc := rfl
@[simp] theorem State.withI_sp a : (s.withI a).sp = s.sp := rfl
@[simp] theorem State.withI_stack a : (s.withI a).stack = s.stack := rfl
@[simp] theorem State.withI_dt a : (s.withI a).dt = s.dt := rfl
@[simp] theorem State.withI_st a : (s.withI a).st = s.st := rfl
@[simp] theorem State.withI_gfx a : (s.withI a).gfx = s.gfx := rfl
@[simp] theorem State.withI_keyState a : (s.withI a).keyState = s.keyState := rfl
@[simp] theorem State.withI_keyWait a : (s.withI a).keyWait = s.keyWait := rfl
@[simp] theorem State.withI_drawFlag a : (s.withI a).drawFlag = s.drawFlag := rfl
@[simp] theorem State.withI_hiresFlag a : (s.withI a).hiresFlag = s.hiresFlag := rfl
@[simp] theorem State.withI_displayWait a : (s.withI a).displayWait = s.displayWait := rfl
@[simp] theorem State.withI_userRegs a : (s.withI a).userRegs = s.userRegs := rfl
@[simp] theorem State.withI_fault a : (s.withI a).fault = s.fault := rfl
@[simp] theorem State.withI_faultPc a : (s.withI a).faultPc = s.faultPc := rfl
@[simp] theorem State.withI_faultInfo a : (s.withI a).faultInfo = s.faultInfo := rfl
@[simp] theorem State.withI_mem a : (s.withI a).mem = s.mem := rfl
@[simp] theorem State.withI_lastOutcome a : (s.withI a).lastOutcome = s.lastOutcome := rfl
@[simp] theorem State.withI_romLoaded a : (s.withI a).romLoaded = s.romLoaded := rfl
@[simp] theorem State.withI_rngDraws a : (s.withI a).rngDraws = s.rngDraws := rfl
@[simp] theorem State.withI_hostEvents a : (s.withI a).hostEvents = s.hostEvents := rfl

@[simp] theorem State.withPc_cfg a : (s.withPc a).cfg = s.cfg := rfl
@[simp] theorem State.withPc_v a : (s.withPc a).v = s.v := rfl
@[simp] theorem State.withPc_i a : (s.withPc a).i = s.i := rfl
@[simp] theorem State.withPc_pc a : (s.withPc a).pc = a := rfl
@[simp] theorem State.withPc_sp a : (s.withPc a).sp = s.sp := rfl
@[simp] theorem State.withPc_stack a : (s.withPc a).stack = s.stack := rfl
@[simp] theorem State.withPc_dt a : (s.withPc a).dt = s.dt := rfl
@[simp] theorem State.withPc_st a : (s.withPc a).st = s.st := rfl
@[simp] theorem State.withPc_gfx a : (s.withPc a).gfx = s.gfx := rfl
@[simp] theorem State.withPc_keyState a : (s.withPc a).keyState = s.keyState := rfl
@[simp] theorem State.withPc_keyWait a : (s.withPc a).keyWait = s.keyWait := rfl
@[simp] theorem State.withPc_drawFlag a : (s.withPc a).drawFlag = s.drawFlag := rfl
@[simp] theorem State.withPc_hiresFlag a : (s.withPc a).hiresFlag = s.hiresFlag := rfl
@[simp] theorem State.withPc_displayWait a : (s.withPc a).displayWait = s.displayWait := rfl
@[simp] theorem State.withPc_userRegs a : (s.withPc a).userRegs = s.userRegs := rfl
@[simp] theorem State.withPc_fault a : (s.withPc a).fault = s.fault := rfl
@[simp] theorem State.withPc_faultPc a : (s.withPc a).faultPc = s.faultPc := rfl
@[simp] theorem State.withPc_faultInfo a : (s.withPc a).faultInfo = s.faultInfo := rfl
@[simp] theorem State.withPc_mem a : (s.withPc a).mem = s.mem := rfl
@[simp] theorem State.withPc_lastOutcome a : (s.withPc a).lastOutcome = s.lastOutcome := rfl
@[simp] theorem State.withPc_romLoaded a : (s.withPc a).romLoaded = s.romLoaded := rfl
@[simp] theorem State.withPc_rngDraws a : (s.withPc a).rngDraws = s.rngDraws := rfl
@[simp] theorem State.withPc_hostEvents a : (s.withPc a).hostEvents = s.hostEvents := rfl

@[simp] theorem State.withSp_cfg a : (s.withSp a).cfg = s.cfg := rfl
@[simp] theorem State.withSp_v a : (s.withSp a).v = s.v := rfl
@[simp] theorem State.withSp_i a : (s.withSp a).i = s.i := rfl
@[simp] theorem State.withSp_pc a : (s.withSp a).pc = s.pc := rfl
@[simp] theorem State.withSp_sp a : (s.withSp a).sp = a := rfl
@[simp] theorem State.withSp_stack a : (s.withSp a).stack = s.stack := rfl
@[simp] theorem State.withSp_dt a : (s.withSp a).dt = s.dt := rfl
@[simp] theorem State.withSp_st a : (s.withSp a).st = s.st := rfl
@[simp] theorem State.withSp_gfx a : (s.withSp a).gfx = s.gfx := rfl
@[simp] theorem State.withSp_keyState a : (s.withSp a).keyState = s.keyState := rfl
@[simp] theorem State.withSp_keyWait a : (s.withSp a).keyWait = s.keyWait := rfl
@[simp] theorem State.withSp_drawFlag a : (s.withSp a).drawFlag = s.drawFlag := rfl
@[simp] theorem State.withSp_hiresFlag a : (s.withSp a).hiresFlag = s.hiresFlag := rfl
@[simp] theorem State.withSp_displayWait a : (s.withSp a).displayWait = s.displayWait := rfl
@[simp] theorem State.withSp_userRegs a : (s.withSp a).userRegs = s.userRegs := rfl
@[simp] theorem State.withSp_fault a : (s.withSp a).fault = s.fault := rfl
@[simp] theorem State.withSp_faultPc a : (s.withSp a).faultPc = s.faultPc := rfl
@[simp] theorem State.withSp_faultInfo a : (s.withSp a).faultInfo = s.faultInfo := rfl
@[simp] theorem State.withSp_mem a : (s.withSp a).mem = s.mem := rfl
@[simp] theorem State.withSp_lastOutcome a : (s.withSp a).lastOutcome = s.lastOutcome := rfl
@[simp] theorem State.withSp_romLoaded a : (s.withSp a).romLoaded = s.romLoaded := rfl
@[simp] theorem State.withSp_rngDraws a : (s.withSp a).rngDraws = s.rngDraws := rfl
@[simp] theorem State.withSp_hostEvents a : (s.withSp a).hostEvents = s.hostEvents := rfl

@[simp] theorem State.withStack_cfg a : (s.withStack a).cfg = s.cfg := rfl
@[simp] theorem State.withStack_v a : (s.withStack a).v = s.v := rfl
@[simp] theorem State.withStack_i a : (s.withStack a).i = s.i := rfl
@[simp] theorem State.withStack_pc a : (s.withStack a).pc = s.pc := rfl
@[simp] theorem State.withStack_sp a : (s.withStack a).sp = s.sp := rfl
@[simp] theorem State.withStack_stack a : (s.withStack a).stack = a := rfl
@[simp] theorem State.withStack_dt a : (s.withStack a).dt = s.dt := rfl
@[simp] theorem State.withStack_st a : (s.withStack a).st = s.st := rfl
@[simp] theorem State.withStack_gfx a : (s.withStack a).gfx = s.gfx := rfl
@[simp] theorem State.withStack_keyState a : (s.withStack a).keyState = s.keyState := rfl
@[simp] theorem State.withStack_keyWait a : (s.withStack a).keyWait = s.keyWait := rfl
@[simp] theorem State.withStack_drawFlag a : (s.withStack a).drawFlag = s.drawFlag := rfl
@[simp] theorem State.withStack_hiresFlag a : (s.withStack a).hiresFlag = s.hiresFlag := rfl
@[simp] theorem State.withStack_displayWait a : (s.withStack a).displayWait = s.displayWait := rfl
@[simp] theorem State.withStack_userRegs a : (s.withStack a).userRegs = s.userRegs := rfl
@[simp] theorem State.withStack_fault a : (s.withStack a).fault = s.fault := rfl
@[simp] theorem State.withStack_faultPc a : (s.withStack a).faultPc = s.faultPc := rfl
@[simp] theorem State.withStack_faultInfo a : (s.withStack a).faultInfo = s.faultInfo := rfl
@[simp] theorem State.withStack_mem a : (s.withStack a).mem = s.mem := rfl
@[simp] theorem State.withStack_lastOutcome a : (s.withStack a).lastOutcome = s.lastOutcome := rfl
@[simp] theorem State.withStack_romLoaded a : (s.withStack a).romLoaded = s.romLoaded := rfl
@[simp] theorem State.withStack_rngDraws a : (s.withStack a).rngDraws = s.rngDraws := rfl
@[simp] theorem State.withStack_hostEvents a : (s.withStack a).hostEvents = s.hostEvents := rfl

@[simp] theorem State.withDt_cfg a : (s.withDt a).cfg = s.cfg := rfl
@[simp] theorem State.withDt_v a : (s.withDt a).v = s.v := rfl
@[simp] theorem State.withDt_i a : (s.withDt a).i = s.i := rfl
@[simp] theorem State.withDt_pc a : (s.withDt a).pc = s.pc := rfl
@[simp] theorem State.withDt_sp a : (s.withDt a).sp = s.sp := rfl
@[simp] theorem State.withDt_stack a : (s.withDt a).stack = s.stack := rfl
@[simp] theorem State.withDt_dt a : (s.withDt a).dt = a := rfl
@[simp] theorem State.withDt_st a : (s.withDt a).st = s.st := rfl
@[simp] theorem State.withDt_gfx a : (s.withDt a).gfx = s.gfx := rfl
@[simp] theorem State.withDt_keyState a : (s.withDt a).keyState = s.keyState := rfl
@[simp] theorem State.withDt_keyWait a : (s.withDt a).keyWait = s.keyWait := rfl
@[simp] theorem State.withDt_drawFlag a : (s.withDt a).drawFlag = s.drawFlag := rfl
@[simp] theorem State.withDt_hiresFlag a : (s.withDt a).hiresFlag = s.hiresFlag := rfl
@[simp] theorem State.withDt_displayWait a : (s.withDt a).displayWait = s.displayWait := rfl
@[simp] theorem State.withDt_userRegs a : (s.withDt a).userRegs = s.userRegs := rfl
@[simp] theorem State.withDt_fault a : (s.withDt a).fault = s.fault := rfl
@[simp] theorem State.withDt_faultPc a : (s.withDt a).faultPc = s.faultPc := rfl
@[simp] theorem State.withDt_faultInfo a : (s.withDt a).faultInfo = s.faultInfo := rfl
@[simp] theorem State.withDt_mem a : (s.withDt a).mem = s.mem := rfl
@[simp] theorem State.withDt_lastOutcome a : (s.withDt a).lastOutcome = s.lastOutcome := rfl
@[simp] theorem State.withDt_romLoaded a : (s.withDt a).romLoaded = s.romLoaded := rfl
@[simp] theorem State.withDt_rngDraws a : (s.withDt a).rngDraws = s.rngDraws := rfl
@[simp] theorem State.withDt_hostEvents a : (s.withDt a).hostEvents = s.hostEvents := rfl

@[simp] theorem State.withSt_cfg a : (s.withSt a).cfg = s.cfg := rfl
@[simp] theorem State.withSt_v a : (s.withSt a).v = s.v := rfl
@[simp] theorem State.withSt_i a : (s.withSt a).i = s.i := rfl
@[simp] theorem State.withSt_pc a : (s.withSt a).pc = s.pc := rfl
@[simp] theorem State.withSt_sp a : (s.withSt a).sp = s.sp := rfl
@[simp] theorem State.withSt_stack a : (s.withSt a).stack = s.stack := rfl
@[simp] theorem State.withSt_dt a : (s.withSt a).dt = s.dt := rfl
@[simp] theorem State.withSt_st a : (s.withSt a).st = a := rfl
@[simp] theorem State.withSt_gfx a : (s.withSt a).gfx = s.gfx := rfl
@[simp] theorem State.withSt_keyState a : (s.withSt a).keyState = s.keyState := rfl
@[simp] theorem State.withSt_keyWait a : (s.withSt a).keyWait = s.keyWait := rfl
@[simp] theorem State.withSt_drawFlag a : (s.withSt a).drawFlag = s.drawFlag := rfl
@[simp] theorem State.withSt_hiresFlag a : (s.withSt a).hiresFlag = s.hiresFlag := rfl
@[simp] theorem State.withSt_displayWait a : (s.withSt a).displayWait = s.displayWait := rfl
@[simp] theorem State.withSt_userRegs a : (s.withSt a).userRegs = s.userRegs := rfl
@[simp] theorem State.withSt_fault a : (s.withSt a).fault = s.fault := rfl
@[simp] theorem State.withSt_faultPc a : (s.withSt a).faultPc = s.faultPc := rfl
@[simp] theorem State.withSt_faultInfo a : (s.withSt a).faultInfo = s.faultInfo := rfl
@[simp] theorem State.withSt_mem a : (s.withSt a).mem = s.mem := rfl
@[simp] theorem State.withSt_lastOutcome a : (s.withSt a).lastOutcome = s.lastOutcome := rfl
@[simp] theorem State.withSt_romLoaded a : (s.withSt a).romLoaded = s.romLoaded := rfl
@[simp] theorem State.withSt_rngDraws a : (s.withSt a).rngDraws = s.rngDraws := rfl
@[simp] theorem State.withSt_hostEvents a : (s.withSt a).hostEvents = s.hostEvents := rfl

@[simp] theorem State.withGfx_cfg a : (s.withGfx a).cfg = s.cfg := rfl
@[simp] theorem State.withGfx_v a : (s.withGfx a).v = s.v := rfl
@[simp] theorem State.withGfx_i a : (s.withGfx a).i = s.i := rfl
@[simp] theorem State.withGfx_pc a : (s.withGfx a).pc = s.pc := rfl
@[simp] theorem State.withGfx_sp a : (s.withGfx a).sp = s.sp := rfl
@[simp] theorem State.withGfx_stack a : (s.withGfx a).stack = s.stack := rfl
@[simp] theorem State.withGfx_dt a : (s.withGfx a).dt = s.dt := rfl
@[simp] theorem State.withGfx_st a : (s.withGfx a).st = s.st := rfl
@[simp] theorem State.withGfx_gfx a : (s.withGfx a).gfx = a := rfl
@[simp] theorem State.withGfx_keyState a : (s.withGfx a).keyState = s.keyState := rfl
@[simp] theorem State.withGfx_keyWait a : (s.withGfx a).keyWait = s.keyWait := rfl
@[simp] theorem State.withGfx_drawFlag a : (s.withGfx a).drawFlag = s.drawFlag := rfl
@[simp] theorem State.withGfx_hiresFlag a : (s.withGfx a).hiresFlag = s.hiresFlag := rfl
@[simp] theorem State.withGfx_displayWait a : (s.withGfx a).displayWait = s.displayWait := rfl
@[simp] theorem State.withGfx_userRegs a : (s.withGfx a).userRegs = s.userRegs := rfl
@[simp] theorem State.withGfx_fault a : (s.withGfx a).fault = s.fault := rfl
@[simp] theorem State.withGfx_faultPc a : (s.withGfx a).faultPc = s.faultPc := rfl
@[simp] theorem State.withGfx_faultInfo a : (s.withGfx a).faultInfo = s.faultInfo := rfl
@[simp] theorem State.withGfx_mem a : (s.withGfx a).mem = s.mem := rfl
@[simp] theorem State.withGfx_lastOutcome a : (s.withGfx a).lastOutcome = s.lastOutcome := rfl
@[simp] theorem State.withGfx_romLoaded a : (s.withGfx a).romLoaded = s.romLoaded := rfl
@[simp] theorem State.withGfx_rngDraws a : (s.withGfx a).rngDraws = s.rngDraws := rfl
@[simp] theorem State.withGfx_hostEvents a : (s.withGfx a).hostEvents = s.hostEvents := rfl

@[simp] theorem State.withKeyState_cfg a : (s.withKeyState a).cfg = s.cfg := rfl
@[simp] theorem State.withKeyState_v a : (s.withKeyState a).v = s.v := rfl
@[simp] theorem State.withKeyState_i a : (s.withKeyState a).i = s.i := rfl
@[simp] theorem State.withKeyState_pc a : (s.withKeyState a).pc = s.pc := rfl
@[simp] theorem State.withKeyState_sp a : (s.withKeyState a).sp = s.sp := rfl
@[simp] theorem State.withKeyState_stack a : (s.withKeyState a).stack = s.stack := rfl
@[simp] theorem State.withKeyState_dt a : (s.withKeyState a).dt = s.dt := rfl
@[simp] theorem State.withKeyState_st a : (s.withKeyState a).st = s.st := rfl
@[simp] theorem State.withKeyState_gfx a : (s.withKeyState a).gfx = s.gfx := rfl
@[simp] theorem State.withKeyState_keyState a : (s.withKeyState a).keyState = a := rfl
@[simp] theorem State.withKeyState_keyWait a : (s.withKeyState a).keyWait = s.keyWait := rfl
@[simp] theorem State.withKeyState_drawFlag a : (s.withKeyState a).drawFlag = s.drawFlag := rfl
@[simp] theorem State.withKeyState_hiresFlag a : (s.withKeyState a).hiresFlag = s.hiresFlag := rfl
@[simp] theorem State.withKeyState_displayWait a : (s.withKeyState a).displayWait = s.displayWait := rfl
@[simp] theorem State.withKeyState_userRegs a : (s.withKeyState a).userRegs = s.userRegs := rfl
@[simp] theorem State.withKeyState_fault a : (s.withKeyState a).fault = s.fault := rfl
@[simp] theorem State.withKeyState_faultPc a : (s.withKeyState a).faultPc = s.faultPc := rfl
@[simp] theorem State.withKeyState_faultInfo a : (s.withKeyState a).faultInfo = s.faultInfo := rfl
@[simp] theorem State.withKeyState_mem a : (s.withKeyState a).mem = s.mem := rfl
@[simp] theorem State.withKeyState_lastOutcome a : (s.withKeyState a).lastOutcome = s.lastOutcome := rfl
@[simp] theorem State.withKeyState_romLoaded a : (s.withKeyState a).romLoaded = s.romLoaded := rfl
@[simp] theorem State.withKeyState_rngDraws a : (s.withKeyState a).rngDraws = s.rngDraws := rfl
@[simp] theorem State.withKeyState_hostEvents a : (s.withKeyState a).hostEvents = s.hostEvents := rfl

@[simp] theorem State.withKeyWait_cfg a : (s.withKeyWait a).cfg = s.cfg := rfl
@[simp] theorem State.withKeyWait_v a : (s.withKeyWait a).v = s.v := rfl
@[simp] theorem State.withKeyWait_i a : (s.withKeyWait a).i = s.i := rfl
@[simp] theorem State.withKeyWait_pc a : (s.withKeyWait a).pc = s.pc := rfl
@[simp] theorem State.withKeyWait_sp a : (s.withKeyWait a).sp = s.sp := rfl
@[simp] theorem State.withKeyWait_stack a : (s.withKeyWait a).stack = s.stack := rfl
@[simp] theorem State.withKeyWait_dt a : (s.withKeyWait a).dt = s.dt := rfl
@[simp] theorem State.withKeyWait_st a : (s.withKeyWait a).st = s.st := rfl
@[simp] theorem State.withKeyWait_gfx a : (s.withKeyWait a).gfx = s.gfx := rfl
@[simp] theorem State.withKeyWait_keyState a : (s.withKeyWait a).keyState = s.keyState := rfl
@[simp] theorem State.withKeyWait_keyWait a : (s.withKeyWait a).keyWait = a := rfl
@[simp] theorem State.withKeyWait_drawFlag a : (s.withKeyWait a).drawFlag = s.drawFlag := rfl
@[simp] theorem State.withKeyWait_hiresFlag a : (s.withKeyWait a).hiresFlag = s.hiresFlag := rfl
@[simp] theorem State.withKeyWait_displayWait a : (s.withKeyWait a).displayWait = s.displayWait := rfl
@[simp] theorem State.withKeyWait_userRegs a : (s.withKeyWait a).userRegs = s.userRegs := rfl
@[simp] theorem State.withKeyWait_fault a : (s.withKeyWait a).fault = s.fault := rfl
@[simp] theorem State.withKeyWait_faultPc a : (s.withKeyWait a).faultPc = s.faultPc := rfl
@[simp] theorem State.withKeyWait_faultInfo a : (s.withKeyWait a).faultInfo = s.faultInfo := rfl
@[simp] theorem State.withKeyWait_mem a : (s.withKeyWait a).mem = s.mem := rfl
@[simp] theorem State.withKeyWait_lastOutcome a : (s.withKeyWait a).lastOutcome = s.lastOutcome := rfl
@[simp] theorem State.withKeyWait_romLoaded a : (s.withKeyWait a).romLoaded = s.romLoaded := rfl
@[simp] theorem State.withKeyWait_rngDraws a : (s.withKeyWait a).rngDraws = s.rngDraws := rfl
@[simp] theorem State.withKeyWait_hostEvents a : (s.withKeyWait a).hostEvents = s.hostEvents := rfl

@[simp] theorem State.withDrawFlag_cfg a : (s.withDrawFlag a).cfg = s.cfg := rfl
@[simp] theorem State.withDrawFlag_v a : (s.withDrawFlag a).v = s.v := rfl
@[simp] theorem State.withDrawFlag_i a : (s.withDrawFlag a).i = s.i := rfl
@[simp] theorem State.withDrawFlag_pc a : (s.withDrawFlag a).pc = s.pc := rfl
@[simp] theorem State.withDrawFlag_sp a : (s.withDrawFlag a).sp = s.sp := rfl
@[simp] theorem State.withDrawFlag_stack a : (s.withDrawFlag a).stack = s.stack := rfl
@[simp] theorem State.withDrawFlag_dt a : (s.withDrawFlag a).dt = s.dt := rfl
@[simp] theorem State.withDrawFlag_st a : (s.withDrawFlag a).st = s.st := rfl
@[simp] theorem State.withDrawFlag_gfx a : (s.withDrawFlag a).gfx = s.gfx := rfl
@[simp] theorem State.withDrawFlag_keyState a : (s.withDrawFlag a).keyState = s.keyState := rfl
@[simp] theorem State.withDrawFlag_keyWait a : (s.withDrawFlag a).keyWait = s.keyWait := rfl
@[simp] theorem State.withDrawFlag_drawFlag a : (s.withDrawFlag a).drawFlag = a := rfl
@[simp] theorem State.withDrawFlag_hiresFlag a : (s.withDrawFlag a).hiresFlag = s.hiresFlag := rfl
@[simp] theorem State.withDrawFlag_displayWait a : (s.withDrawFlag a).displayWait = s.displayWait := rfl
@[simp] theorem State.withDrawFlag_userRegs a : (s.withDrawFlag a).userRegs = s.userRegs := rfl
@[simp] theorem State.withDrawFlag_fault a : (s.withDrawFlag a).fault = s.fault := rfl
@[simp] theorem State.withDrawFlag_faultPc a : (s.withDrawFlag a).faultPc = s.faultPc := rfl
@[simp] theorem State.withDrawFlag_faultInfo a : (s.withDrawFlag a).faultInfo = s.faultInfo := rfl
@[simp] theorem State.withDrawFlag_mem a : (s.withDrawFlag a).mem = s.mem := rfl
@[simp] theorem State.withDrawFlag_lastOutcome a : (s.withDrawFlag a).lastOutcome = s.lastOutcome := rfl
@[simp] theorem State.withDrawFlag_romLoaded a : (s.withDrawFlag a).romLoaded = s.romLoaded := rfl
@[simp] theorem State.withDrawFlag_rngDraws a : (s.withDrawFlag a).rngDraws = s.rngDraws := rfl
@[simp] theorem State.withDrawFlag_hostEvents a : (s.withDrawFlag a).hostEvents = s.hostEvents := rfl

@[simp] theorem State.withHiresFlag_cfg a : (s.withHiresFlag a).cfg = s.cfg := rfl
@[simp] theorem State.withHiresFlag_v a : (s.withHiresFlag a).v = s.v := rfl
@[simp] theorem State.withHiresFlag_i a : (s.withHiresFlag a).i = s.i := rfl
@[simp] theorem State.withHiresFlag_pc a : (s.withHiresFlag a).pc = s.pc := rfl
@[simp] theorem State.withHiresFlag_sp a : (s.withHiresFlag a).sp = s.sp := rfl
@[simp] theorem State.withHiresFlag_stack a : (s.withHiresFlag a).stack = s.stack := rfl
@[simp] theorem State.withHiresFlag_dt a : (s.withHiresFlag a).dt = s.dt := rfl
@[simp] theorem State.withHiresFlag_st a : (s.withHiresFlag a).st = s.st := rfl
@[simp] theorem State.withHiresFlag_gfx a : (s.withHiresFlag a).gfx = s.gfx := rfl
@[simp] theorem State.withHiresFlag_keyState a : (s.withHiresFlag a).keyState = s.keyState := rfl
@[simp] theorem State.withHiresFlag_keyWait a : (s.withHiresFlag a).keyWait = s.keyWait := rfl
@[simp] theorem State.withHiresFlag_drawFlag a : (s.withHiresFlag a).drawFlag = s.drawFlag := rfl
@[simp] theorem State.withHiresFlag_hiresFlag a : (s.withHiresFlag a).hiresFlag = a := rfl
@[simp] theorem State.withHiresFlag_displayWait a : (s.withHiresFlag a).displayWait = s.displayWait := rfl
@[simp] theorem State.withHiresFlag_userRegs a : (s.withHiresFlag a).userRegs = s.userRegs := rfl
@[simp] theorem State.withHiresFlag_fault a : (s.withHiresFlag a).fault = s.fault := rfl
@[simp] theorem State.withHiresFlag_faultPc a : (s.withHiresFlag a).faultPc = s.faultPc := rfl
@[simp] theorem State.withHiresFlag_faultInfo a : (s.withHiresFlag a).faultInfo = s.faultInfo := rfl
@[simp] theorem State.withHiresFlag_mem a : (s.withHiresFlag a).mem = s.mem := rfl
@[simp] theorem State.withHiresFlag_lastOutcome a : (s.withHiresFlag a).lastOutcome = s.lastOutcome := rfl
@[simp] theorem State.withHiresFlag_romLoaded a : (s.withHiresFlag a).romLoaded = s.romLoaded := rfl
@[simp] theorem State.withHiresFlag_rngDraws a : (s.withHiresFlag a).rngDraws = s.rngDraws := rfl
@[simp] theorem State.withHiresFlag_hostEvents a : (s.withHiresFlag a).hostEvents = s.hostEvents := rfl

@[simp] theorem State.withDisplayWait_cfg a : (s.withDisplayWait a).cfg = s.cfg := rfl
@[simp] theorem State.withDisplayWait_v a : (s.withDisplayWait a).v = s.v := rfl
@[simp] theorem State.withDisplayWait_i a : (s.withDisplayWait a).i = s.i := rfl
@[simp] theorem State.withDisplayWait_pc a : (s.withDisplayWait a).pc = s.pc := rfl
@[simp] theorem State.withDisplayWait_sp a : (s.withDisplayWait a).sp = s.sp := rfl
@[simp] theorem State.withDisplayWait_stack a : (s.withDisplayWait a).stack = s.stack := rfl
@[simp] theorem State.withDisplayWait_dt a : (s.withDisplayWait a).dt = s.dt := rfl
@[simp] theorem State.withDisplayWait_st a : (s.withDisplayWait a).st = s.st := rfl
@[simp] theorem State.withDisplayWait_gfx a : (s.withDisplayWait a).gfx = s.gfx := rfl
@[simp] theorem State.withDisplayWait_keyState a : (s.withDisplayWait a).keyState = s.keyState := rfl
@[simp] theorem State.withDisplayWait_keyWait a : (s.withDisplayWait a).keyWait = s.keyWait := rfl
@[simp] theorem State.withDisplayWait_drawFlag a : (s.withDisplayWait a).drawFlag = s.drawFlag := rfl
@[simp] theorem State.withDisplayWait_hiresFlag a : (s.withDisplayWait a).hiresFlag = s.hiresFlag := rfl
@[simp] theorem State.withDisplayWait_displayWait a : (s.withDisplayWait a).displayWait = a := rfl
@[simp] theorem State.withDisplayWait_userRegs a : (s.withDisplayWait a).userRegs = s.userRegs := rfl
@[simp] theorem State.withDisplayWait_fault a : (s.withDisplayWait a).fault = s.fault := rfl
@[simp] theorem State.withDisplayWait_faultPc a : (s.withDisplayWait a).faultPc = s.faultPc := rfl
@[simp] theorem State.withDisplayWait_faultInfo a : (s.withDisplayWait a).faultInfo = s.faultInfo := rfl
@[simp] theorem State.withDisplayWait_mem a : (s.withDisplayWait a).mem = s.mem := rfl
@[simp] theorem State.withDisplayWait_lastOutcome a : (s.withDisplayWait a).lastOutcome = s.lastOutcome := rfl
@[simp] theorem State.withDisplayWait_romLoaded a : (s.withDisplayWait a).romLoaded = s.romLoaded := rfl
@[simp] theorem State.withDisplayWait_rngDraws a : (s.withDisplayWait a).rngDraws = s.rngDraws := rfl
@[simp] theorem State.withDisplayWait_hostEvents a : (s.withDisplayWait a).hostEvents = s.hostEvents := rfl

@[simp] theorem State.withUserRegs_cfg a : (s.withUserRegs a).cfg = s.cfg := rfl
@[simp] theorem State.withUserRegs_v a : (s.withUserRegs a).v = s.v := rfl
@[simp] theorem State.withUserRegs_i a : (s.withUserRegs a).i = s.i := rfl
@[simp] theorem State.withUserRegs_pc a : (s.withUserRegs a).pc = s.pc := rfl
@[simp] theorem State.withUserRegs_sp a : (s.withUserRegs a).sp = s.sp := rfl
@[simp] theorem State.withUserRegs_stack a : (s.withUserRegs a).stack = s.stack := rfl
@[simp] theorem State.withUserRegs_dt a : (s.withUserRegs a).dt = s.dt := rfl
@[simp] theorem State.withUserRegs_st a : (s.withUserRegs a).st = s.st := rfl
@[simp] theorem State.withUserRegs_gfx a : (s.withUserRegs a).gfx = s.gfx := rfl
@[simp] theorem State.withUserRegs_keyState a : (s.withUserRegs a).keyState = s.keyState := rfl
@[simp] theorem State.withUserRegs_keyWait a : (s.withUserRegs a).keyWait = s.keyWait := rfl
@[simp] theorem State.withUserRegs_drawFlag a : (s.withUserRegs a).drawFlag = s.drawFlag := rfl
@[simp] theorem State.withUserRegs_hiresFlag a : (s.withUserRegs a).hiresFlag = s.hiresFlag := rfl
@[simp] theorem State.withUserRegs_displayWait a : (s.withUserRegs a).displayWait = s.displayWait := rfl
@[simp] theorem State.withUserRegs_userRegs a : (s.withUserRegs a).userRegs = a := rfl
@[simp] theorem State.withUserRegs_fault a : (s.withUserRegs a).fault = s.fault := rfl
@[simp] theorem State.withUserRegs_faultPc a : (s.withUserRegs a).faultPc = s.faultPc := rfl
@[simp] theorem State.withUserRegs_faultInfo a : (s.withUserRegs a).faultInfo = s.faultInfo := rfl
@[simp] theorem State.withUserRegs_mem a : (s.withUserRegs a).mem = s.mem := rfl
@[simp] theorem State.withUserRegs_lastOutcome a : (s.withUserRegs a).lastOutcome = s.lastOutcome := rfl
@[simp] theorem State.withUserRegs_romLoaded a : (s.withUserRegs a).romLoaded = s.romLoaded := rfl
@[simp] theorem State.withUserRegs_rngDraws a : (s.withUserRegs a).rngDraws = s.rngDraws := rfl
@[simp] theorem State.withUserRegs_hostEvents a : (s.withUserRegs a).hostEvents = s.hostEvents := rfl

@[simp] theorem State.withFault_cfg a : (s.withFault a).cfg = s.cfg := rfl
@[simp] theorem State.withFault_v a : (s.withFault a).v = s.v := rfl
@[simp] theorem State.withFault_i a : (s.withFault a).i = s.i := rfl
@[simp] theorem State.withFault_pc a : (s.withFault a).pc = s.pc := rfl
@[simp] theorem State.withFault_sp a : (s.withFault a).sp = s.sp := rfl
@[simp] theorem State.withFault_stack a : (s.withFault a).stack = s.stack := rfl
@[simp] theorem State.withFault_dt a : (s.withFault a).dt = s.dt := rfl
@[simp] theorem State.withFault_st a : (s.withFault a).st = s.st := rfl
@[simp] theorem State.withFault_gfx a : (s.withFault a).gfx = s.gfx := rfl
@[simp] theorem State.withFault_keyState a : (s.withFault a).keyState = s.keyState := rfl
@[simp] theorem State.withFault_keyWait a : (s.withFault a).keyWait = s.keyWait := rfl
@[simp] theorem State.withFault_drawFlag a : (s.withFault a).drawFlag = s.drawFlag := rfl
@[simp] theorem State.withFault_hiresFlag a : (s.withFault a).hiresFlag = s.hiresFlag := rfl
@[simp] theorem State.withFault_displayWait a : (s.withFault a).displayWait = s.displayWait := rfl
@[simp] theorem State.withFault_userRegs a : (s.withFault a).userRegs = s.userRegs := rfl
@[simp] theorem State.withFault_fault a : (s.withFault a).fault = a := rfl
@[simp] theorem State.withFault_faultPc a : (s.withFault a).faultPc = s.faultPc := rfl
@[simp] theorem State.withFault_faultInfo a : (s.withFault a).faultInfo = s.faultInfo := rfl
@[simp] theorem State.withFault_mem a : (s.withFault a).mem = s.mem := rfl
@[simp] theorem State.withFault_lastOutcome a : (s.withFault a).lastOutcome = s.lastOutcome := rfl
@[simp] theorem State.withFault_romLoaded a : (s.withFault a).romLoaded = s.romLoaded := rfl
@[simp] theorem State.withFault_rngDraws a : (s.withFault a).rngDraws = s.rngDraws := rfl
@[simp] theorem State.withFault_hostEvents a : (s.withFault a).hostEvents = s.hostEvents := rfl

@[simp] theorem State.withFaultPc_cfg a : (s.withFaultPc a).cfg = s.cfg := rfl
@[simp] theorem State.withFaultPc_v a : (s.withFaultPc a).v = s.v := rfl
@[simp] theorem State.withFaultPc_i a : (s.withFaultPc a).i = s.i := rfl
@[simp] theorem State.withFaultPc_pc a : (s.withFaultPc a).pc = s.pc := rfl
@[simp] theorem State.withFaultPc_sp a : (s.withFaultPc a).sp = s.sp := rfl
@[simp] theorem State.withFaultPc_stack a : (s.withFaultPc a).stack = s.stack := rfl
@[simp] theorem State.withFaultPc_dt a : (s.withFaultPc a).dt = s.dt := rfl
@[simp] theorem State.withFaultPc_st a : (s.withFaultPc a).st = s.st := rfl
@[simp] theorem State.withFaultPc_gfx a : (s.withFaultPc a).gfx = s.gfx := rfl
@[simp] theorem State.withFaultPc_keyState a : (s.withFaultPc a).keyState = s.keyState := rfl
@[simp] theorem State.withFaultPc_keyWait a : (s.withFaultPc a).keyWait = s.keyWait := rfl
@[simp] theorem State.withFaultPc_drawFlag a : (s.withFaultPc a).drawFlag = s.drawFlag := rfl
@[simp] theorem State.withFaultPc_hiresFlag a : (s.withFaultPc a).hiresFlag = s.hiresFlag := rfl
@[simp] theorem State.withFaultPc_displayWait a : (s.withFaultPc a).displayWait = s.displayWait := rfl
@[simp] theorem State.withFaultPc_userRegs a : (s.withFaultPc a).userRegs = s.userRegs := rfl
@[simp] theorem State.withFaultPc_fault a : (s.withFaultPc a).fault = s.fault := rfl
@[simp] theorem State.withFaultPc_faultPc a : (s.withFaultPc a).faultPc = a := rfl
@[simp] theorem State.withFaultPc_faultInfo a : (s.withFaultPc a).faultInfo = s.faultInfo := rfl
@[simp] theorem State.withFaultPc_mem a : (s.withFaultPc a).mem = s.mem := rfl
@[simp] theorem State.withFaultPc_lastOutcome a : (s.withFaultPc a).lastOutcome = s.lastOutcome := rfl
@[simp] theorem State.withFaultPc_romLoaded a : (s.withFaultPc a).romLoaded = s.romLoaded := rfl
@[simp] theorem State.withFaultPc_rngDraws a : (s.withFaultPc a).rngDraws = s.rngDraws := rfl
@[simp] theorem State.withFaultPc_hostEvents a : (s.withFaultPc a).hostEvents = s.hostEvents := rfl

@[simp] theorem State.withFaultInfo_cfg a : (s.withFaultInfo a).cfg = s.cfg := rfl
@[simp] theorem State.withFaultInfo_v a : (s.withFaultInfo a).v = s.v := rfl
@[simp] theorem State.withFaultInfo_i a : (s.withFaultInfo a).i = s.i := rfl
@[simp] theorem State.withFaultInfo_pc a : (s.withFaultInfo a).pc = s.pc := rfl
@[simp] theorem State.withFaultInfo_sp a : (s.withFaultInfo a).sp = s.sp := rfl
@[simp] theorem State.withFaultInfo_stack a : (s.withFaultInfo a).stack = s.stack := rfl
@[simp] theorem State.withFaultInfo_dt a : (s.withFaultInfo a).dt = s.dt := rfl
@[simp] theorem State.withFaultInfo_st a : (s.withFaultInfo a).st = s.st := rfl
@[simp] theorem State.withFaultInfo_gfx a : (s.withFaultInfo a).gfx = s.gfx := rfl
@[simp] theorem State.withFaultInfo_keyState a : (s.withFaultInfo a).keyState = s.keyState := rfl
@[simp] theorem State.withFaultInfo_keyWait a : (s.withFaultInfo a).keyWait = s.keyWait := rfl
@[simp] theorem State.withFaultInfo_drawFlag a : (s.withFaultInfo a).drawFlag = s.drawFlag := rfl
@[simp] theorem State.withFaultInfo_hiresFlag a : (s.withFaultInfo a).hiresFlag = s.hiresFlag := rfl
@[simp] theorem State.withFaultInfo_displayWait a : (s.withFaultInfo a).displayWait = s.displayWait := rfl
@[simp] theorem State.withFaultInfo_userRegs a : (s.withFaultInfo a).userRegs = s.userRegs := rfl
@[simp] theorem State.withFaultInfo_fault a : (s.withFaultInfo a).fault = s.fault := rfl
@[simp] theorem State.withFaultInfo_faultPc a : (s.withFaultInfo a).faultPc = s.faultPc := rfl
@[simp] theorem State.withFaultInfo_faultInfo a : (s.withFaultInfo a).faultInfo = a := rfl
@[simp] theorem State.withFaultInfo_mem a : (s.withFaultInfo a).mem = s.mem := rfl
@[simp] theorem State.withFaultInfo_lastOutcome a : (s.withFaultInfo a).lastOutcome = s.lastOutcome := rfl
@[simp] theorem State.withFaultInfo_romLoaded a : (s.withFaultInfo a).romLoaded = s.romLoaded := rfl
@[simp] theorem State.withFaultInfo_rngDraws a : (s.withFaultInfo a).rngDraws = s.rngDraws := rfl
@[simp] theorem State.withFaultInfo_hostEvents a : (s.withFaultInfo a).hostEvents = s.hostEvents := rfl

@[simp] theorem State.withMem_cfg a : (s.withMem a).cfg = s.cfg := rfl
@[simp] theorem State.withMem_v a : (s.withMem a).v = s.v := rfl
@[simp] theorem State.withMem_i a : (s.withMem a).i = s.i := rfl
@[simp] theorem State.withMem_pc a : (s.withMem a).pc = s.pc := rfl
@[simp] theorem State.withMem_sp a : (s.withMem a).sp = s.sp := rfl
@[simp] theorem State.withMem_stack a : (s.withMem a).stack = s.stack := rfl
@[simp] theorem State.withMem_dt a : (s.withMem a).dt = s.dt := rfl
@[simp] theorem State.withMem_st a : (s.withMem a).st = s.st := rfl
@[simp] theorem State.withMem_gfx a : (s.withMem a).gfx = s.gfx := rfl
@[simp] theorem State.withMem_keyState a : (s.withMem a).keyState = s.keyState := rfl
@[simp] theorem State.withMem_keyWait a : (s.withMem a).keyWait = s.keyWait := rfl
@[simp] theorem State.withMem_drawFlag a : (s.withMem a).drawFlag = s.drawFlag := rfl
@[simp] theorem State.withMem_hiresFlag a : (s.withMem a).hiresFlag = s.hiresFlag := rfl
@[simp] theorem State.withMem_displayWait a : (s.withMem a).displayWait = s.displayWait := rfl
@[simp] theorem State.withMem_userRegs a : (s.withMem a).userRegs = s.userRegs := rfl
@[simp] theorem State.withMem_fault a : (s.withMem a).fault = s.fault := rfl
@[simp] theorem State.withMem_faultPc a : (s.withMem a).faultPc = s.faultPc := rfl
@[simp] theorem State.withMem_faultInfo a : (s.withMem a).faultInfo = s.faultInfo := rfl
@[simp] theorem State.withMem_mem a : (s.withMem a).mem = a := rfl
@[simp] theorem State.withMem_lastOutcome a : (s.withMem a).lastOutcome = s.lastOutcome := rfl
@[simp] theorem State.withMem_romLoaded a : (s.withMem a).romLoaded = s.romLoaded := rfl
@[simp] theorem State.withMem_rngDraws a : (s.withMem a).rngDraws = s.rngDraws := rfl
@[simp] theorem State.withMem_hostEvents a : (s.withMem a).hostEvents = s.hostEvents := rfl

@[simp] theorem State.withLastOutcome_cfg a : (s.withLastOutcome a).cfg = s.cfg := rfl
@[simp] theorem State.withLastOutcome_v a : (s.withLastOutcome a).v = s.v := rfl
@[simp] theorem State.withLastOutcome_i a : (s.withLastOutcome a).i = s.i := rfl
@[simp] theorem State.withLastOutcome_pc a : (s.withLastOutcome a).pc = s.pc := rfl
@[simp] theorem State.withLastOutcome_sp a : (s.withLastOutcome a).sp = s.sp := rfl
@[simp] theorem State.withLastOutcome_stack a : (s.withLastOutcome a).stack = s.stack := rfl
@[simp] theorem State.withLastOutcome_dt a : (s.withLastOutcome a).dt = s.dt := rfl
@[simp] theorem State.withLastOutcome_st a : (s.withLastOutcome a).st = s.st := rfl
@[simp] theorem State.withLastOutcome_gfx a : (s.withLastOutcome a).gfx = s.gfx := rfl
@[simp] theorem State.withLastOutcome_keyState a : (s.withLastOutcome a).keyState = s.keyState := rfl
@[simp] theorem State.withLastOutcome_keyWait a : (s.withLastOutcome a).keyWait = s.keyWait := rfl
@[simp] theorem State.withLastOutcome_drawFlag a : (s.withLastOutcome a).drawFlag = s.drawFlag := rfl
@[simp] theorem State.withLastOutcome_hiresFlag a : (s.withLastOutcome a).hiresFlag = s.hiresFlag := rfl
@[simp] theorem State.withLastOutcome_displayWait a : (s.withLastOutcome a).displayWait = s.displayWait := rfl
@[simp] theorem State.withLastOutcome_userRegs a : (s.withLastOutcome a).userRegs = s.userRegs := rfl
@[simp] theorem State.withLastOutcome_fault a : (s.withLastOutcome a).fault = s.fault := rfl
@[simp] theorem State.withLastOutcome_faultPc a : (s.withLastOutcome a).faultPc = s.faultPc := rfl
@[simp] theorem State.withLastOutcome_faultInfo a : (s.withLastOutcome a).faultInfo = s.faultInfo := rfl
@[simp] theorem State.withLastOutcome_mem a : (s.withLastOutcome a).mem = s.mem := rfl
@[simp] theorem State.withLastOutcome_lastOutcome a : (s.withLastOutcome a).lastOutcome = a := rfl
@[simp] theorem State.withLastOutcome_romLoaded a : (s.withLastOutcome a).romLoaded = s.romLoaded := rfl
@[simp] theorem State.withLastOutcome_rngDraws a : (s.withLastOutcome a).rngDraws = s.rngDraws := rfl
@[simp] theorem State.withLastOutcome_hostEvents a : (s.withLastOutcome a).hostEvents = s.hostEvents := rfl

@[simp] theorem State.withRomLoaded_cfg a : (s.withRomLoaded a).cfg = s.cfg := rfl
@[simp] theorem State.withRomLoaded_v a : (s.withRomLoaded a).v = s.v := rfl
@[simp] theorem State.withRomLoaded_i a : (s.withRomLoaded a).i = s.i := rfl
@[simp] theorem State.withRomLoaded_pc a : (s.withRomLoaded a).pc = s.pc := rfl
@[simp] theorem State.withRomLoaded_sp a : (s.withRomLoaded a).sp = s.sp := rfl
@[simp] theorem State.withRomLoaded_stack a : (s.withRomLoaded a).stack = s.stack := rfl
@[simp] theorem State.withRomLoaded_dt a : (s.withRomLoaded a).dt = s.dt := rfl
@[simp] theorem State.withRomLoaded_st a : (s.withRomLoaded a).st = s.st := rfl
@[simp] theorem State.withRomLoaded_gfx a : (s.withRomLoaded a).gfx = s.gfx := rfl
@[simp] theorem State.withRomLoaded_keyState a : (s.withRomLoaded a).keyState = s.keyState := rfl
@[simp] theorem State.withRomLoaded_keyWait a : (s.withRomLoaded a).keyWait = s.keyWait := rfl
@[simp] theorem State.withRomLoaded_drawFlag a : (s.withRomLoaded a).drawFlag = s.drawFlag := rfl
@[simp] theorem State.withRomLoaded_hiresFlag a : (s.withRomLoaded a).hiresFlag = s.hiresFlag := rfl
@[simp] theorem State.withRomLoaded_displayWait a : (s.withRomLoaded a).displayWait = s.displayWait := rfl
@[simp] theorem State.withRomLoaded_userRegs a : (s.withRomLoaded a).userRegs = s.userRegs := rfl
@[simp] theorem State.withRomLoaded_fault a : (s.withRomLoaded a).fault = s.fault := rfl
@[simp] theorem State.withRomLoaded_faultPc a : (s.withRomLoaded a).faultPc = s.faultPc := rfl
@[simp] theorem State.withRomLoaded_faultInfo a : (s.withRomLoaded a).faultInfo = s.faultInfo := rfl
@[simp] theorem State.withRomLoaded_mem a : (s.withRomLoaded a).mem = s.mem := rfl
@[simp] theorem State.withRomLoaded_lastOutcome a : (s.withRomLoaded a).lastOutcome = s.lastOutcome := rfl
@[simp] theorem State.withRomLoaded_romLoaded a : (s.withRomLoaded a).romLoaded = a := rfl
@[simp] theorem State.withRomLoaded_rngDraws a : (s.withRomLoaded a).rngDraws = s.rngDraws := rfl
@[simp] theorem State.withRomLoaded_hostEvents a : (s.withRomLoaded a).hostEvents = s.hostEvents := rfl

@[simp] theorem State.withRngDraws_cfg a : (s.withRngDraws a).cfg = s.cfg := rfl
@[simp] theorem State.withRngDraws_v a : (s.withRngDraws a).v = s.v := rfl
@[simp] theorem State.withRngDraws_i a : (s.withRngDraws a).i = s.i := rfl
@[simp] theorem State.withRngDraws_pc a : (s.withRngDraws a).pc = s.pc := rfl
@[simp] theorem State.withRngDraws_sp a : (s.withRngDraws a).sp = s.sp := rfl
@[simp] theorem State.withRngDraws_stack a : (s.withRngDraws a).stack = s.stack := rfl
@[simp] theorem State.withRngDraws_dt a : (s.withRngDraws a).dt = s.dt := rfl
@[simp] theorem State.withRngDraws_st a : (s.withRngDraws a).st = s.st := rfl
@[simp] theorem State.withRngDraws_gfx a : (s.withRngDraws a).gfx = s.gfx := rfl
@[simp] theorem State.withRngDraws_keyState a : (s.withRngDraws a).keyState = s.keyState := rfl
@[simp] theorem State.withRngDraws_keyWait a : (s.withRngDraws a).keyWait = s.keyWait := rfl
@[simp] theorem State.withRngDraws_drawFlag a : (s.withRngDraws a).drawFlag = s.drawFlag := rfl
@[simp] theorem State.withRngDraws_hiresFlag a : (s.withRngDraws a).hiresFlag = s.hiresFlag := rfl
@[simp] theorem State.withRngDraws_displayWait a : (s.withRngDraws a).displayWait = s.displayWait := rfl
@[simp] theorem State.withRngDraws_userRegs a : (s.withRngDraws a).userRegs = s.userRegs := rfl
@[simp] theorem State.withRngDraws_fault a : (s.withRngDraws a).fault = s.fault := rfl
@[simp] theorem State.withRngDraws_faultPc a : (s.withRngDraws a).faultPc = s.faultPc := rfl
@[simp] theorem State.withRngDraws_faultInfo a : (s.withRngDraws a).faultInfo = s.faultInfo := rfl
@[simp] theorem State.withRngDraws_mem a : (s.withRngDraws a).mem = s.mem := rfl
@[simp] theorem State.withRngDraws_lastOutcome a : (s.withRngDraws a).lastOutcome = s.lastOutcome := rfl
@[simp] theorem State.withRngDraws_romLoaded a : (s.withRngDraws a).romLoaded = s.romLoaded := rfl
@[simp] theorem State.withRngDraws_rngDraws a : (s.withRngDraws a).rngDraws = a := rfl
@[simp] theorem State.withRngDraws_hostEvents a : (s.withRngDraws a).hostEvents = s.hostEvents := rfl

@[simp] theorem State.withHostEvents_cfg a : (s.withHostEvents a).cfg = s.cfg := rfl
@[simp] theorem State.withHostEvents_v a : (s.withHostEvents a).v = s.v := rfl
@[simp] theorem State.withHostEvents_i a : (s.withHostEvents a).i = s.i := rfl
@[simp] theorem State.withHostEvents_pc a : (s.withHostEvents a).pc = s.pc := rfl
@[simp] theorem State.withHostEvents_sp a : (s.withHostEvents a).sp = s.sp := rfl
@[simp] theorem State.withHostEvents_stack a : (s.withHostEvents a).stack = s.stack := rfl
@[simp] theorem State.withHostEvents_dt a : (s.withHostEvents a).dt = s.dt := rfl
@[simp] theorem State.withHostEvents_st a : (s.withHostEvents a).st = s.st := rfl
@[simp] theorem State.withHostEvents_gfx a : (s.withHostEvents a).gfx = s.gfx := rfl
@[simp] theorem State.withHostEvents_keyState a : (s.withHostEvents a).keyState = s.keyState := rfl
@[simp] theorem State.withHostEvents_keyWait a : (s.withHostEvents a).keyWait = s.keyWait := rfl
@[simp] theorem State.withHostEvents_drawFlag a : (s.withHostEvents a).drawFlag = s.drawFlag := rfl
@[simp] theorem State.withHostEvents_hiresFlag a : (s.withHostEvents a).hiresFlag = s.hiresFlag := rfl
@[simp] theorem State.withHostEvents_displayWait a : (s.withHostEvents a).displayWait = s.displayWait := rfl
@[simp] theorem State.withHostEvents_userRegs a : (s.withHostEvents a).userRegs = s.userRegs := rfl
@[simp] theorem State.withHostEvents_fault a : (s.withHostEvents a).fault = s.fault := rfl
@[simp] theorem State.withHostEvents_faultPc a : (s.withHostEvents a).faultPc = s.faultPc := rfl
@[simp] theorem State.withHostEvents_faultInfo a : (s.withHostEvents a).faultInfo = s.faultInfo := rfl
@[simp] theorem State.withHostEvents_mem a : (s.withHostEvents a).mem = s.mem := rfl
@[simp] theorem State.withHostEvents_lastOutcome a : (s.withHostEvents a).lastOutcome = s.lastOutcome := rfl
@[simp] theorem State.withHostEvents_romLoaded a : (s.withHostEvents a).romLoaded = s.romLoaded := rfl
@[simp] theorem State.withHostEvents_rngDraws a : (s.withHostEvents a).rngDraws = s.rngDraws := rfl
@[simp] theorem State.withHostEvents_hostEvents a : (s.withHostEvents a).hostEvents = a := rfl

/-! ### Composed operations as one record update -/

theorem State.setReg_eq (r : RegIdx) (b : Byte) : s.setReg r b = { s with v := s.v.set r.val b } := rfl

theorem State.advance_eq (d : Word) :
    s.advance d = { s with pc := s.pc + d, lastOutcome := some .stepped } := rfl

theorem State.jump_eq (t : Word) : s.jump t = { s with pc := t, lastOutcome := some .stepped } := rfl

theorem State.stay_eq : s.stay = { s with lastOutcome := some .waitingKey } := rfl

theorem State.raiseFault_eq (r : Fault) (info : FaultInfo) :
    s.raiseFault r info =
      { s with fault := some r, faultPc := s.pc, faultInfo := info, lastOutcome := some .faulted } := rfl

theorem State.present_eq (g : Gfx) : s.present g = { s with gfx := g, drawFlag := true } := rfl

theorem State.push_eq (h : s.sp.val < 16) :
    s.push h = { s with stack := s.stack.set s.sp.val s.pc h, sp := ⟨s.sp.val + 1, by omega⟩ } := rfl

theorem State.pop_eq : s.pop = { s with sp := ⟨s.sp.val - 1, by omega⟩ } := rfl

theorem State.writeBytes_eq (a : Nat) (bs : List Byte) :
    s.writeBytes a bs = { s with mem := Memory.writeBytes s.cfg s.mem a bs } := rfl

theorem State.displayAck_eq : s.displayAck = { s with drawFlag := false } := rfl

/-! ### Registers -/

@[simp] theorem State.reg_setReg (r q : RegIdx) (b : Byte) :
    (s.setReg r b).reg q = if q = r then b else s.reg q := by
  simp only [State.setReg, State.reg, State.withV_v, Vector.getElem_set, Fin.ext_iff, eq_comm]

@[simp] theorem State.reg_setFlag (q : RegIdx) (b : Byte) :
    (s.setFlag b).reg q = if q = flagReg then b else s.reg q := s.reg_setReg flagReg q b

/-- The flag is written last, so `VF` holds it (R131). -/
theorem State.reg_setRegFlag (x q : RegIdx) (result flag : Byte) :
    (s.setRegFlag x result flag).reg q =
      if q = flagReg then flag else if q = x then result else s.reg q := by
  simp [State.setRegFlag]

@[simp] theorem State.reg_setRegsUpTo (x q : RegIdx) (f : RegIdx → Byte) :
    (s.setRegsUpTo x f).reg q = if q ≤ x then f q else s.reg q := by
  simp [State.setRegsUpTo, State.reg]

@[simp] theorem State.userReg_setUserRegsUpTo (x q : RegIdx) (f : RegIdx → Byte) :
    (s.setUserRegsUpTo x f).userReg q = if q ≤ x then f q else s.userReg q := by
  simp [State.setUserRegsUpTo, State.userReg]

/-- `V[0..x]` as bytes: entry `k` is `V[k]`. -/
theorem State.regsUpTo_getElem (x : RegIdx) (k : Nat) (h : k ≤ x.val) :
    (s.regsUpTo x)[k]? = some (s.reg ⟨k, by omega⟩) := by
  have hk : k < 16 := by omega
  simp [State.regsUpTo, State.reg, Nat.lt_succ_iff.mpr h, hk]

@[simp] theorem State.regsUpTo_length (x : RegIdx) : (s.regsUpTo x).length = x.val + 1 := by
  rw [State.regsUpTo, List.length_take, Vector.length_toList]; omega

end Sys2Proof.Machine
end

