-- ==== Sys2Proof/Laws/Frame.lean ====
section
/-! SUPPORT. Reads of registers, user registers and memory bytes through each update, the frame of each update
and how frames compose (the terms of Sys2Proof/Safety.lean). -/

namespace Sys2Proof.Machine

section
variable (s : State)

/-! ### Reads through the updates of other fields -/

@[simp] theorem State.withV_userReg a k : (s.withV a).userReg k = s.userReg k := rfl
@[simp] theorem State.withV_readByte a x : (s.withV a).readByte x = s.readByte x := rfl
@[simp] theorem State.withI_reg a r : (s.withI a).reg r = s.reg r := rfl
@[simp] theorem State.withI_userReg a k : (s.withI a).userReg k = s.userReg k := rfl
@[simp] theorem State.withI_readByte a x : (s.withI a).readByte x = s.readByte x := rfl
@[simp] theorem State.withPc_reg a r : (s.withPc a).reg r = s.reg r := rfl
@[simp] theorem State.withPc_userReg a k : (s.withPc a).userReg k = s.userReg k := rfl
@[simp] theorem State.withPc_readByte a x : (s.withPc a).readByte x = s.readByte x := rfl
@[simp] theorem State.withSp_reg a r : (s.withSp a).reg r = s.reg r := rfl
@[simp] theorem State.withSp_userReg a k : (s.withSp a).userReg k = s.userReg k := rfl
@[simp] theorem State.withSp_readByte a x : (s.withSp a).readByte x = s.readByte x := rfl
@[simp] theorem State.withStack_reg a r : (s.withStack a).reg r = s.reg r := rfl
@[simp] theorem State.withStack_userReg a k : (s.withStack a).userReg k = s.userReg k := rfl
@[simp] theorem State.withStack_readByte a x : (s.withStack a).readByte x = s.readByte x := rfl
@[simp] theorem State.withDt_reg a r : (s.withDt a).reg r = s.reg r := rfl
@[simp] theorem State.withDt_userReg a k : (s.withDt a).userReg k = s.userReg k := rfl
@[simp] theorem State.withDt_readByte a x : (s.withDt a).readByte x = s.readByte x := rfl
@[simp] theorem State.withSt_reg a r : (s.withSt a).reg r = s.reg r := rfl
@[simp] theorem State.withSt_userReg a k : (s.withSt a).userReg k = s.userReg k := rfl
@[simp] theorem State.withSt_readByte a x : (s.withSt a).readByte x = s.readByte x := rfl
@[simp] theorem State.withGfx_reg a r : (s.withGfx a).reg r = s.reg r := rfl
@[simp] theorem State.withGfx_userReg a k : (s.withGfx a).userReg k = s.userReg k := rfl
@[simp] theorem State.withGfx_readByte a x : (s.withGfx a).readByte x = s.readByte x := rfl
@[simp] theorem State.withKeyState_reg a r : (s.withKeyState a).reg r = s.reg r := rfl
@[simp] theorem State.withKeyState_userReg a k : (s.withKeyState a).userReg k = s.userReg k := rfl
@[simp] theorem State.withKeyState_readByte a x : (s.withKeyState a).readByte x = s.readByte x := rfl
@[simp] theorem State.withKeyWait_reg a r : (s.withKeyWait a).reg r = s.reg r := rfl
@[simp] theorem State.withKeyWait_userReg a k : (s.withKeyWait a).userReg k = s.userReg k := rfl
@[simp] theorem State.withKeyWait_readByte a x : (s.withKeyWait a).readByte x = s.readByte x := rfl
@[simp] theorem State.withDrawFlag_reg a r : (s.withDrawFlag a).reg r = s.reg r := rfl
@[simp] theorem State.withDrawFlag_userReg a k : (s.withDrawFlag a).userReg k = s.userReg k := rfl
@[simp] theorem State.withDrawFlag_readByte a x : (s.withDrawFlag a).readByte x = s.readByte x := rfl
@[simp] theorem State.withHiresFlag_reg a r : (s.withHiresFlag a).reg r = s.reg r := rfl
@[simp] theorem State.withHiresFlag_userReg a k : (s.withHiresFlag a).userReg k = s.userReg k := rfl
@[simp] theorem State.withHiresFlag_readByte a x : (s.withHiresFlag a).readByte x = s.readByte x := rfl
@[simp] theorem State.withDisplayWait_reg a r : (s.withDisplayWait a).reg r = s.reg r := rfl
@[simp] theorem State.withDisplayWait_userReg a k : (s.withDisplayWait a).userReg k = s.userReg k := rfl
@[simp] theorem State.withDisplayWait_readByte a x : (s.withDisplayWait a).readByte x = s.readByte x := rfl
@[simp] theorem State.withUserRegs_reg a r : (s.withUserRegs a).reg r = s.reg r := rfl
@[simp] theorem State.withUserRegs_readByte a x : (s.withUserRegs a).readByte x = s.readByte x := rfl
@[simp] theorem State.withFault_reg a r : (s.withFault a).reg r = s.reg r := rfl
@[simp] theorem State.withFault_userReg a k : (s.withFault a).userReg k = s.userReg k := rfl
@[simp] theorem State.withFault_readByte a x : (s.withFault a).readByte x = s.readByte x := rfl
@[simp] theorem State.withFaultPc_reg a r : (s.withFaultPc a).reg r = s.reg r := rfl
@[simp] theorem State.withFaultPc_userReg a k : (s.withFaultPc a).userReg k = s.userReg k := rfl
@[simp] theorem State.withFaultPc_readByte a x : (s.withFaultPc a).readByte x = s.readByte x := rfl
@[simp] theorem State.withFaultInfo_reg a r : (s.withFaultInfo a).reg r = s.reg r := rfl
@[simp] theorem State.withFaultInfo_userReg a k : (s.withFaultInfo a).userReg k = s.userReg k := rfl
@[simp] theorem State.withFaultInfo_readByte a x : (s.withFaultInfo a).readByte x = s.readByte x := rfl
@[simp] theorem State.withMem_reg a r : (s.withMem a).reg r = s.reg r := rfl
@[simp] theorem State.withMem_userReg a k : (s.withMem a).userReg k = s.userReg k := rfl
@[simp] theorem State.withLastOutcome_reg a r : (s.withLastOutcome a).reg r = s.reg r := rfl
@[simp] theorem State.withLastOutcome_userReg a k : (s.withLastOutcome a).userReg k = s.userReg k := rfl
@[simp] theorem State.withLastOutcome_readByte a x : (s.withLastOutcome a).readByte x = s.readByte x := rfl
@[simp] theorem State.withRomLoaded_reg a r : (s.withRomLoaded a).reg r = s.reg r := rfl
@[simp] theorem State.withRomLoaded_userReg a k : (s.withRomLoaded a).userReg k = s.userReg k := rfl
@[simp] theorem State.withRomLoaded_readByte a x : (s.withRomLoaded a).readByte x = s.readByte x := rfl
@[simp] theorem State.withRngDraws_reg a r : (s.withRngDraws a).reg r = s.reg r := rfl
@[simp] theorem State.withRngDraws_userReg a k : (s.withRngDraws a).userReg k = s.userReg k := rfl
@[simp] theorem State.withRngDraws_readByte a x : (s.withRngDraws a).readByte x = s.readByte x := rfl
@[simp] theorem State.withHostEvents_reg a r : (s.withHostEvents a).reg r = s.reg r := rfl
@[simp] theorem State.withHostEvents_userReg a k : (s.withHostEvents a).userReg k = s.userReg k := rfl
@[simp] theorem State.withHostEvents_readByte a x : (s.withHostEvents a).readByte x = s.readByte x := rfl

@[simp] theorem State.advance_reg (d : Word) (r : RegIdx) : (s.advance d).reg r = s.reg r := rfl

@[simp] theorem State.advance_userReg (d : Word) (k : RegIdx) : (s.advance d).userReg k = s.userReg k := rfl

@[simp] theorem State.advance_readByte (d : Word) (a : Nat) : (s.advance d).readByte a = s.readByte a := rfl

@[simp] theorem State.advance_i (d : Word) : (s.advance d).i = s.i := rfl

@[simp] theorem State.advance_lastOutcome (d : Word) : (s.advance d).lastOutcome = some .stepped := rfl

/-- The program counter after `Delta(d)` (R114). -/
theorem State.advance_pc_toNat (d : Word) : (s.advance d).pc.toNat = (s.pc.toNat + d.toNat) % 65536 :=
  BitVec.toNat_add ..

end

/-! ### Frames -/

theorem Frame.refl (l : List Part) (s : State) : Frame l s s :=
  ⟨rfl, fun p _ => by cases p <;> simp [Part.same]⟩

theorem Part.same_trans {s t u : State} {p : Part} (h : p.same s t) (h' : p.same t u) : p.same s u := by
  cases p <;> simp_all [Part.same]

/-- Frames compose: what two updates leave alone, their sequence leaves alone. -/
theorem Frame.trans {l m k : List Part} {s t u : State} (h : Frame l s t) (h' : Frame m t u)
    (hl : l ⊆ k := by simp) (hm : m ⊆ k := by simp) : Frame k s u :=
  ⟨h'.1.trans h.1, fun p hp => Part.same_trans (h.2 p fun hi => hp (hl hi)) (h'.2 p fun hi => hp (hm hi))⟩

theorem Frame.mono {l k : List Part} {s t : State} (h : Frame l s t) (hl : l ⊆ k := by simp) : Frame k s t :=
  ⟨h.1, fun p hp => h.2 p fun hi => hp (hl hi)⟩

section
variable (s : State)

theorem State.withV_frame a : Frame [.regs] s (s.withV a) :=
  ⟨rfl, fun p hp => by cases p <;> simp_all [Part.same]⟩

theorem State.withI_frame a : Frame [.index] s (s.withI a) :=
  ⟨rfl, fun p hp => by cases p <;> simp_all [Part.same]⟩

theorem State.withPc_frame a : Frame [.pc] s (s.withPc a) :=
  ⟨rfl, fun p hp => by cases p <;> simp_all [Part.same]⟩

theorem State.withSp_frame a : Frame [.stack] s (s.withSp a) :=
  ⟨rfl, fun p hp => by cases p <;> simp_all [Part.same]⟩

theorem State.withStack_frame a : Frame [.stack] s (s.withStack a) :=
  ⟨rfl, fun p hp => by cases p <;> simp_all [Part.same]⟩

theorem State.withDt_frame a : Frame [.delayTimer] s (s.withDt a) :=
  ⟨rfl, fun p hp => by cases p <;> simp_all [Part.same]⟩

theorem State.withSt_frame a : Frame [.soundTimer] s (s.withSt a) :=
  ⟨rfl, fun p hp => by cases p <;> simp_all [Part.same]⟩

theorem State.withGfx_frame a : Frame [.framebuffer] s (s.withGfx a) :=
  ⟨rfl, fun p hp => by cases p <;> simp_all [Part.same]⟩

theorem State.withKeyState_frame a : Frame [.keys] s (s.withKeyState a) :=
  ⟨rfl, fun p hp => by cases p <;> simp_all [Part.same]⟩

theorem State.withKeyWait_frame a : Frame [.keyWait] s (s.withKeyWait a) :=
  ⟨rfl, fun p hp => by cases p <;> simp_all [Part.same]⟩

theorem State.withDrawFlag_frame a : Frame [.drawFlag] s (s.withDrawFlag a) :=
  ⟨rfl, fun p hp => by cases p <;> simp_all [Part.same]⟩

theorem State.withHiresFlag_frame a : Frame [.resolution] s (s.withHiresFlag a) :=
  ⟨rfl, fun p hp => by cases p <;> simp_all [Part.same]⟩

theorem State.withDisplayWait_frame a : Frame [.displayWait] s (s.withDisplayWait a) :=
  ⟨rfl, fun p hp => by cases p <;> simp_all [Part.same]⟩

theorem State.withUserRegs_frame a : Frame [.userRegs] s (s.withUserRegs a) :=
  ⟨rfl, fun p hp => by cases p <;> simp_all [Part.same]⟩

theorem State.withFault_frame a : Frame [.faultRecord] s (s.withFault a) :=
  ⟨rfl, fun p hp => by cases p <;> simp_all [Part.same]⟩

theorem State.withFaultPc_frame a : Frame [.faultRecord] s (s.withFaultPc a) :=
  ⟨rfl, fun p hp => by cases p <;> simp_all [Part.same]⟩

theorem State.withFaultInfo_frame a : Frame [.faultRecord] s (s.withFaultInfo a) :=
  ⟨rfl, fun p hp => by cases p <;> simp_all [Part.same]⟩

theorem State.withMem_frame a : Frame [.memory] s (s.withMem a) :=
  ⟨rfl, fun p hp => by cases p <;> simp_all [Part.same]⟩

theorem State.withLastOutcome_frame a : Frame [.outcome] s (s.withLastOutcome a) :=
  ⟨rfl, fun p hp => by cases p <;> simp_all [Part.same]⟩

theorem State.withRomLoaded_frame a : Frame [.romLoaded] s (s.withRomLoaded a) :=
  ⟨rfl, fun p hp => by cases p <;> simp_all [Part.same]⟩

theorem State.withRngDraws_frame a : Frame [.draws] s (s.withRngDraws a) :=
  ⟨rfl, fun p hp => by cases p <;> simp_all [Part.same]⟩

theorem State.withHostEvents_frame a : Frame [.schedule] s (s.withHostEvents a) :=
  ⟨rfl, fun p hp => by cases p <;> simp_all [Part.same]⟩

/-! ### The frames of the composed operations -/

theorem State.setReg_frame (r : RegIdx) (b : Byte) : Frame [.regs] s (s.setReg r b) := s.withV_frame _

theorem State.setFlag_frame (b : Byte) : Frame [.regs] s (s.setFlag b) := s.withV_frame _

theorem State.setRegFlag_frame (r : RegIdx) (b c : Byte) : Frame [.regs] s (s.setRegFlag r b c) :=
  (s.setReg_frame r b).trans (State.setFlag_frame _ c)

theorem State.setRegsUpTo_frame (x : RegIdx) (f : RegIdx → Byte) : Frame [.regs] s (s.setRegsUpTo x f) :=
  s.withV_frame _

theorem State.writeBytes_frame (a : Nat) (bs : List Byte) : Frame [.memory] s (s.writeBytes a bs) :=
  s.withMem_frame _

theorem State.present_frame (g : Gfx) : Frame [.framebuffer, .drawFlag] s (s.present g) :=
  (s.withGfx_frame g).trans (State.withDrawFlag_frame _ true)

theorem State.advance_frame (d : Word) : Frame [.pc, .outcome] s (s.advance d) :=
  (s.withPc_frame _).trans (State.withLastOutcome_frame _ _)

theorem State.jump_frame (t : Word) : Frame [.pc, .outcome] s (s.jump t) :=
  (s.withPc_frame _).trans (State.withLastOutcome_frame _ _)

theorem State.stay_frame : Frame [.outcome] s s.stay := s.withLastOutcome_frame _

/-- Taking a fault changes the fault record and the outcome only (R119, R262, R263). -/
theorem State.raiseFault_frame (r : Fault) (info : FaultInfo) :
    Frame [.faultRecord, .outcome] s (s.raiseFault r info) :=
  ⟨rfl, fun p hp => by cases p <;> simp_all [Part.same, State.raiseFault]⟩

/-- What taking a fault leaves (R262). -/
theorem State.raiseFault_takes (r : Fault) (info : FaultInfo) :
    TakesFault s (s.raiseFault r info) r info.toNat :=
  ⟨s.raiseFault_frame r info, rfl, rfl, rfl, rfl⟩

theorem State.push_frame (h : s.sp.val < 16) : Frame [.stack] s (s.push h) :=
  (s.withStack_frame _).trans (State.withSp_frame _ _)

theorem State.pop_frame : Frame [.stack] s s.pop := s.withSp_frame _

theorem State.logicReset_frame : Frame [.regs] s s.logicReset := by
  unfold State.logicReset; split
  · exact s.setFlag_frame 0
  · exact Frame.refl _ s

theorem State.addressFlag_frame (o : Bool) : Frame [.regs] s (s.addressFlag o) := by
  unfold State.addressFlag; split
  · exact s.setFlag_frame 1
  · split
    · exact Frame.refl _ s
    · exact s.setFlag_frame 0

theorem State.waitForDisplay_frame : Frame [.displayWait] s s.waitForDisplay := by
  unfold State.waitForDisplay; split
  · exact s.withDisplayWait_frame true
  · exact Frame.refl _ s

end

/-! ### How an instruction completes -/

/-- An instruction whose meaning is an effect that keeps `pc` and then `Delta(d)` completes (R114). -/
theorem completes_of_advance {i : Instr} {s u : State} {d : Word} {l : List Part} {post : State → Prop}
    (he : exec i s = .next (u.advance d)) (hf : Frame l s u) (hp : post (u.advance d)) :
    Completes i s l post :=
  ⟨_, he, hf.trans (u.advance_frame d) (by simp) (by simp), hp⟩

/-- An instruction whose meaning is an effect and then `Jump(d)` completes (R114). -/
theorem completes_of_jump {i : Instr} {s u : State} {d : Word} {l : List Part} {post : State → Prop}
    (he : exec i s = .next (u.jump d)) (hf : Frame l s u) (hp : post (u.jump d)) :
    Completes i s l post :=
  ⟨_, he, hf.trans (u.jump_frame d) (by simp) (by simp), hp⟩

/-- `Delta(d)` after an effect that keeps `pc`. -/
theorem stepped_of_advance {s u : State} (d : Word) (h : u.pc = s.pc) : Stepped s (u.advance d) d.toNat := by
  refine ⟨?_, rfl⟩
  rw [State.advance_pc_toNat, h]

/-- An instruction that takes a fault. -/
theorem faults_of_raise {i : Instr} {s : State} {r : Fault} {info : FaultInfo} {n : Nat}
    (he : exec i s = .next (s.raiseFault r info)) (hn : info.toNat = n) : Faults i s r n :=
  ⟨_, he, hn ▸ s.raiseFault_takes r info⟩

end Sys2Proof.Machine
end

