-- ==== Sys2Proof/Laws/Framebuffer.lean ====
section
/-! SUPPORT. The framebuffer as a sorted list of set cells: what each operation leaves in each cell, and that
the canonical form is kept (spec/10_state.md R42 to R44, spec/43_display.md R193, R199). -/

namespace Sys2Proof.Machine

theorem cellBefore_iff (p q : Nat × Nat) :
    cellBefore p q = true ↔ p.1 < q.1 ∨ (p.1 = q.1 ∧ p.2 < q.2) := by simp [cellBefore]

theorem cellBefore_trans {p q r : Nat × Nat} (h : cellBefore p q = true) (h' : cellBefore q r = true) :
    cellBefore p r = true := by
  rw [cellBefore_iff] at *; omega

theorem cellBefore_total {p q : Nat × Nat} (h : cellBefore p q ≠ true) (hne : p ≠ q) :
    cellBefore q p = true := by
  rw [Ne, cellBefore_iff] at h
  rw [cellBefore_iff]
  rcases p with ⟨a, b⟩; rcases q with ⟨c, d⟩
  simp only [ne_eq, Prod.mk.injEq] at hne h ⊢
  omega

namespace Gfx

variable (g : Gfx)

theorem get_iff (y x : Nat) : g.get y x = true ↔ (y, x) ∈ g := by simp [get]

theorem mem_insert {p q : Nat × Nat} : q ∈ insert p g ↔ q = p ∨ q ∈ g := by
  induction g with
  | nil => simp [insert]
  | cons r rest ih =>
    simp only [insert]
    split
    · simp
    · split
      · next h => subst h; simp
      · simp only [List.mem_cons, ih]; tauto

theorem mem_erase {p q : Nat × Nat} : q ∈ erase p g ↔ q ∈ g ∧ q ≠ p := by simp [erase]

theorem mem_flip (y x : Nat) (q : Nat × Nat) :
    q ∈ g.flip y x ↔ if q = (y, x) then q ∉ g else q ∈ g := by
  unfold flip
  by_cases hg : (y, x) ∈ g
  · rw [if_pos ((get_iff g y x).mpr hg), mem_erase]
    by_cases hq : q = (y, x)
    · simp [hq, hg]
    · simp [hq]
  · rw [if_neg (mt (get_iff g y x).mp hg), mem_insert]
    by_cases hq : q = (y, x)
    · simp [hq, hg]
    · simp [hq]

/-- Flipping a cell inverts that cell and no other (R193). -/
theorem get_flip (y x y' x' : Nat) :
    (g.flip y x).get y' x' = ((g.get y' x') ^^ decide ((y', x') = (y, x))) := by
  rw [Bool.eq_iff_iff, get_iff, mem_flip]
  by_cases h : (y', x') = (y, x)
  · rw [if_pos h, ← get_iff]; cases g.get y' x' <;> simp [h]
  · rw [if_neg h, ← get_iff]; cases g.get y' x' <;> simp [h]

@[simp] theorem get_clear (y x : Nat) : clear.get y x = false := rfl

/-! ### The canonical form -/

theorem insert_wf (p : Nat × Nat) (h : wf g) : wf (insert p g) := by
  induction g with
  | nil => simp [insert, wf]
  | cons q rest ih =>
    obtain ⟨hq, hrest⟩ := List.pairwise_cons.mp h
    simp only [insert]
    split
    · next hb =>
      refine List.pairwise_cons.mpr ⟨fun r hr => ?_, h⟩
      rcases List.mem_cons.mp hr with rfl | hr
      · exact hb
      · exact cellBefore_trans hb (hq r hr)
    · split
      · next heq => exact heq ▸ h
      · next hb hne =>
        refine List.pairwise_cons.mpr ⟨fun r hr => ?_, ih hrest⟩
        rcases (mem_insert rest).mp hr with rfl | hr
        · exact cellBefore_total hb hne
        · exact hq r hr

theorem erase_wf (p : Nat × Nat) (h : wf g) : wf (erase p g) := List.Pairwise.filter _ h

theorem flip_wf (y x : Nat) (h : wf g) : wf (g.flip y x) := by
  unfold flip; split
  · exact erase_wf _ _ h
  · exact insert_wf _ _ h

theorem clear_wf : wf clear := List.Pairwise.nil

/-! ### Scrolls (R199) -/

theorem mem_foldr_insert (l acc : List (Nat × Nat)) (q : Nat × Nat) :
    q ∈ l.foldr insert acc ↔ q ∈ l ∨ q ∈ acc := by
  induction l with
  | nil => simp
  | cons r rest ih => rw [List.foldr_cons, mem_insert, ih, List.mem_cons, or_assoc]

theorem foldr_insert_wf (l acc : List (Nat × Nat)) (h : wf acc) : wf (l.foldr insert acc) := by
  induction l with
  | nil => exact h
  | cons r rest ih => exact insert_wf _ _ ih

/-- The set cells after a scroll: those outside the surface, and those a set cell of the surface moves to. -/
theorem mem_scroll (h w : Nat) (move : Nat × Nat → Option (Nat × Nat)) (q : Nat × Nat) :
    q ∈ g.scroll h w move ↔
      (q ∈ g ∧ onSurface h w q = false) ∨ ∃ p ∈ g, onSurface h w p = true ∧ move p = some q := by
  simp only [scroll, mem_foldr_insert, List.mem_filter, List.mem_filterMap, Bool.not_eq_true', and_assoc]

/-- A move that keeps row-major order keeps the canonical form. -/
theorem scroll_wf (h w : Nat) (move : Nat × Nat → Option (Nat × Nat)) (hg : wf g)
    (hmove : ∀ p q p' q', cellBefore p q = true → move p = some p' → move q = some q' →
      cellBefore p' q' = true) : wf (g.scroll h w move) := by
  refine foldr_insert_wf _ _ ?_
  refine List.Pairwise.filterMap move (fun p q hpq p' hp' q' hq' => ?_) (List.Pairwise.filter _ hg)
  exact hmove p q p' q' hpq hp' hq'

end Gfx

/-! ### Drawing: the flips of a list of cells (R193, R195) -/

/-- After flipping distinct cells: each of them is inverted, no other changes. -/
theorem plot_foldl_get (cells : List (Nat × Nat)) (hnd : cells.Nodup) (g : Gfx) (b : Bool) (y x : Nat) :
    (cells.foldl plot (g, b)).1.get y x = (g.get y x ^^ decide ((y, x) ∈ cells)) := by
  induction cells generalizing g b with
  | nil => simp
  | cons p rest ih =>
    obtain ⟨hp, hrest⟩ := List.nodup_cons.mp hnd
    rw [List.foldl_cons, plot, ih hrest, Gfx.get_flip]
    by_cases h : (y, x) = p
    · subst h; simp [hp]
    · have h' : (y, x) ≠ (p.1, p.2) := h
      simp [List.mem_cons, h]

/-- After flipping distinct cells: a collision is recorded iff one of them was set. -/
theorem plot_foldl_collided (cells : List (Nat × Nat)) (hnd : cells.Nodup) (g : Gfx) (b : Bool) :
    (cells.foldl plot (g, b)).2 = (b || cells.any fun p => g.get p.1 p.2) := by
  induction cells generalizing g b with
  | nil => simp
  | cons p rest ih =>
    obtain ⟨hp, hrest⟩ := List.nodup_cons.mp hnd
    rw [List.foldl_cons, plot, ih hrest, List.any_cons, Bool.or_assoc]
    congr 2
    rw [Bool.eq_iff_iff, List.any_eq_true, List.any_eq_true]
    refine exists_congr fun q => and_congr_right fun hq => ?_
    have hne : (q.1, q.2) ≠ (p.1, p.2) := fun h => hp (by rwa [show p = q from Prod.ext_iff.mpr ⟨(Prod.mk.inj h).1.symm, (Prod.mk.inj h).2.symm⟩])
    rw [Gfx.get_flip, decide_eq_false hne, Bool.xor_false]

theorem plot_foldl_wf (cells : List (Nat × Nat)) (g : Gfx) (b : Bool) (h : g.wf) :
    (cells.foldl plot (g, b)).1.wf := by
  induction cells generalizing g b with
  | nil => exact h
  | cons p rest ih => rw [List.foldl_cons]; exact ih _ _ (Gfx.flip_wf g _ _ h)

theorem mem_plot_foldl (cells : List (Nat × Nat)) (g : Gfx) (b : Bool) {q : Nat × Nat}
    (h : q ∈ (cells.foldl plot (g, b)).1) : q ∈ cells ∨ q ∈ g := by
  induction cells generalizing g b with
  | nil => exact .inr h
  | cons p rest ih =>
    rw [List.foldl_cons] at h
    rcases ih _ _ h with h | h
    · exact .inl (List.mem_cons_of_mem _ h)
    · have h' := (Gfx.mem_flip g p.1 p.2 q).mp h
      by_cases hq : q = (p.1, p.2)
      · exact .inl (List.mem_cons.mpr (.inl hq))
      · rw [if_neg hq] at h'; exact .inr h'

end Sys2Proof.Machine
end

