-- ==== Sys2Proof/Laws/Draw.lean ====
section
/-! SUPPORT. The draw: the meaning's surface and sprite are those of Sys2Proof/Safety.lean, its cells are distinct,
and so what it leaves in each cell and whether it collides (spec/43_display.md R192 to R195). -/

namespace Sys2Proof.Machine

variable (s : State) (x y : RegIdx) (n : Count)

theorem effWidth_eq : s.effWidth = surfaceWidth s := by
  unfold State.effWidth surfaceWidth
  cases s.cfg.variant <;> simp [Variant.screenWidth]

theorem effHeight_eq : s.effHeight = surfaceHeight s := by
  unfold State.effHeight surfaceHeight
  cases s.cfg.variant <;> simp [Variant.screenHeight]

theorem surface_ge : 64 ≤ surfaceWidth s ∧ 32 ≤ surfaceHeight s := by
  unfold surfaceWidth surfaceHeight; split <;> omega

/-- The surface is no larger than the screen (R16). -/
theorem surface_le_screen :
    surfaceWidth s ≤ s.cfg.variant.screenWidth ∧ surfaceHeight s ≤ s.cfg.variant.screenHeight := by
  unfold surfaceWidth surfaceHeight
  cases s.cfg.variant <;> simp [Variant.screenWidth, Variant.screenHeight] <;> split <;> omega

theorem hires_iff : s.hires = true ↔ s.cfg.variant ≠ .chip8 ∧ s.hiresFlag = true := by
  simp [State.hires]

theorem isExtended_iff (v : Variant) : v.isExtended = true ↔ v ≠ .chip8 := by
  cases v <;> simp [Variant.isExtended]

/-! ### The geometry -/

theorem isSuperSprite_iff : s.isSuperSprite n = true ↔ SuperSprite s n := by
  simp [State.isSuperSprite, SuperSprite, State.hires, and_assoc]

theorem spriteGeom_rows : (s.spriteGeom x y n).rows = spriteRows s n := by
  simp only [State.spriteGeom, spriteRows, isSuperSprite_iff]

theorem spriteGeom_bpr : (s.spriteGeom x y n).bpr = spriteRowBytes s n := by
  simp only [State.spriteGeom, spriteRowBytes, isSuperSprite_iff]

theorem spriteGeom_nbytes : (s.spriteGeom x y n).nbytes = spriteBytes s n := by
  rw [SpriteGeom.nbytes, spriteBytes, spriteGeom_rows, spriteGeom_bpr]

theorem sprite_le : spriteRows s n ≤ 16 ∧ spriteRowBytes s n ≤ 2 := by
  have := n.isLt
  unfold spriteRows spriteRowBytes; split <;> omega

theorem mem_positions (g : SpriteGeom) (p : Nat × Nat) :
    p ∈ g.positions ↔ p.1 < g.rows ∧ p.2 < 8 * g.bpr := by
  obtain ⟨r, c⟩ := p
  simp [SpriteGeom.positions]

theorem positions_nodup (g : SpriteGeom) : g.positions.Nodup :=
  List.Nodup.product (List.nodup_range (n := g.rows)) (List.nodup_range (n := 8 * g.bpr))

theorem spriteBit_iff (r c : Nat) :
    s.spriteBit (s.spriteGeom x y n) (r, c) = true ↔ SpriteBitSet s (spriteRowBytes s n) r c := by
  unfold State.spriteBit SpriteBitSet
  rw [spriteGeom_bpr]
  simp only [State.dataAddr, BitVec.getLsbD, Nat.testBit, Nat.shiftRight_eq_div_pow]
  rw [Nat.add_assoc, bne_iff_ne, Nat.one_and_eq_mod_two]
  omega

theorem cell_iff (r c yy xx : Nat) :
    (s.spriteGeom x y n).cell s.cfg.variant (r, c) = some (yy, xx) ↔ LandsOn s x y r c yy xx := by
  unfold SpriteGeom.cell LandsOn
  simp only [State.spriteGeom, effWidth_eq, effHeight_eq]
  split
  · simp [eq_comm]
  · by_cases h : (s.reg x).toNat % surfaceWidth s + c ≥ surfaceWidth s ∨
        (s.reg y).toNat % surfaceHeight s + r ≥ surfaceHeight s
    · rw [if_pos h]; simp; omega
    · rw [if_neg h]; simp; omega

/-- The cells a draw inverts are those the sprite covers (R193). -/
theorem mem_spriteCells (yy xx : Nat) :
    (yy, xx) ∈ s.spriteCells (s.spriteGeom x y n) ↔ Covers s x y n yy xx := by
  simp only [State.spriteCells, List.mem_filterMap, List.mem_filter, mem_positions, Prod.exists, cell_iff,
    spriteBit_iff, spriteGeom_rows, spriteGeom_bpr, Covers, and_assoc]

/-- Within 16 columns or rows a wrap at 32 or more is one to one. -/
theorem wrap_inj {w a b k : Nat} (hw : 16 ≤ w) (ha : a < 16) (hb : b < 16)
    (h : (k + a) % w = (k + b) % w) : a = b :=
  Nat.ModEq.eq_of_lt_of_lt (Nat.ModEq.add_left_cancel' (n := w) k h) (by omega) (by omega)

/-- No two bits of a sprite fall on the same cell, wrapped or clipped (R194). -/
theorem spriteCells_nodup : (s.spriteCells (s.spriteGeom x y n)).Nodup := by
  have hb := sprite_le s n
  have hw := surface_ge s
  refine List.pairwise_filterMap.mpr (List.Pairwise.imp_of_mem ?_ ((positions_nodup _).filter _))
  rintro ⟨r, c⟩ ⟨r', c'⟩ h1 h2 hne ⟨yy, xx⟩ h3 q h4 rfl
  have m1 := (mem_positions _ _).mp (List.mem_filter.mp h1).1
  have m2 := (mem_positions _ _).mp (List.mem_filter.mp h2).1
  rw [spriteGeom_rows, spriteGeom_bpr] at m1 m2
  rw [cell_iff] at h3 h4
  simp only [LandsOn] at m1 m2 h3 h4
  refine hne (Prod.ext_iff.mpr ?_)
  split at h3
  · rw [if_pos ‹_›] at h4
    exact ⟨wrap_inj (by omega) (by omega) (by omega) (h3.1.symm.trans h4.1),
      wrap_inj (by omega) (by omega) (by omega) (h3.2.symm.trans h4.2)⟩
  · rw [if_neg ‹_›] at h4
    exact ⟨show r = r' by omega, show c = c' by omega⟩

/-- What a draw leaves in each cell (R193). -/
theorem drawSprite_get (yy xx : Nat) :
    (s.drawSprite (s.spriteGeom x y n)).1.get yy xx = true ↔
      ¬(s.gfx.get yy xx = true ↔ Covers s x y n yy xx) := by
  have hm := mem_spriteCells s x y n yy xx
  unfold State.drawSprite
  rw [plot_foldl_get _ (spriteCells_nodup s x y n)]
  by_cases h : Covers s x y n yy xx <;> cases s.gfx.get yy xx <;> simp [h, hm]

/-- When a draw collides (R195). -/
theorem drawSprite_collided :
    (s.drawSprite (s.spriteGeom x y n)).2 = true ↔
      ∃ yy xx, Covers s x y n yy xx ∧ s.gfx.get yy xx = true := by
  unfold State.drawSprite
  rw [plot_foldl_collided _ (spriteCells_nodup s x y n)]
  simp only [Bool.false_or, List.any_eq_true, Prod.exists, mem_spriteCells]

end Sys2Proof.Machine
end

