-- ==== Sys2Proof/Laws/Memory.lean ====
section
/-! SUPPORT. Memory: a read after a write, the canonical form, and what the access checks decide
(spec/20_memory.md R76 to R78). -/

namespace Sys2Proof.Machine

variable (c : Config) (m : Memory)

namespace Memory

theorem lookup_insert (a x : Nat) (b : Byte) :
    lookup (insert a b m) x = if x = a then some b else lookup m x := by
  induction m with
  | nil => simp [insert, lookup, eq_comm]
  | cons p rest ih =>
    obtain ⟨k, d⟩ := p
    simp only [insert]
    split
    · simp [lookup, eq_comm]
    · split
      · next h =>
        subst h
        by_cases hx : x = a
        · simp [lookup, hx]
        · simp [lookup, hx, Ne.symm hx]
      · next h1 h2 =>
        by_cases hk : k = x
        · subst hk; simp [lookup, Ne.symm h2]
        · simp [lookup, hk, ih]

theorem lookup_erase (a x : Nat) :
    lookup (erase a m) x = if x = a then none else lookup m x := by
  induction m with
  | nil => simp [erase, lookup]
  | cons p rest ih =>
    obtain ⟨k, d⟩ := p
    simp only [erase, List.filter_cons] at ih ⊢
    by_cases hk : k = a
    · subst hk
      simp only [bne_self_eq_false, Bool.false_eq_true, if_false, ih, lookup]
      by_cases hx : x = k <;> simp [hx, eq_comm]
    · simp only [bne_iff_ne, ne_eq, hk, not_false_eq_true, if_true, lookup, ih]
      by_cases hx : k = x
      · subst hx; simp [hk]
      · simp [hx]

/-- A read after a write: the written byte at its address, every other address as before (R81). -/
@[simp] theorem read_write (a x : Nat) (b : Byte) :
    read c (write c m a b) x = if x = a then b else read c m x := by
  unfold write read
  split
  · next h => by_cases hx : x = a <;> simp [lookup_erase, hx, h]
  · by_cases hx : x = a <;> simp [lookup_insert, hx]

theorem mem_insert {a : Nat} {b : Byte} {p : Host.Cell} (h : p ∈ insert a b m) : p = (a, b) ∨ p ∈ m := by
  induction m with
  | nil => simpa [insert] using h
  | cons q rest ih =>
    simp only [insert] at h
    split at h
    · simpa using h
    · split at h
      · rcases List.mem_cons.mp h with h | h
        · exact .inl h
        · exact .inr (List.mem_cons_of_mem _ h)
      · rcases List.mem_cons.mp h with h | h
        · exact .inr (h ▸ List.mem_cons_self)
        · exact (ih h).imp_right (List.mem_cons_of_mem _)

theorem insert_pairwise (a : Nat) (b : Byte) (h : m.Pairwise fun p q => p.1 < q.1) :
    (insert a b m).Pairwise fun p q => p.1 < q.1 := by
  induction m with
  | nil => simp [insert]
  | cons q rest ih =>
    obtain ⟨hq, hrest⟩ := List.pairwise_cons.mp h
    simp only [insert]
    split
    · next hlt =>
      refine List.pairwise_cons.mpr ⟨fun p hp => ?_, h⟩
      rcases List.mem_cons.mp hp with rfl | hp
      · exact hlt
      · exact hlt.trans (hq p hp)
    · split
      · next heq => exact List.pairwise_cons.mpr ⟨fun p hp => heq ▸ hq p hp, hrest⟩
      · refine List.pairwise_cons.mpr ⟨fun p hp => ?_, ih hrest⟩
        rcases mem_insert _ hp with rfl | hp
        · show q.1 < a; omega
        · exact hq p hp

/-- A write keeps the canonical form. -/
theorem write_wf (a : Nat) (b : Byte) (h : wf c m) : wf c (write c m a b) := by
  unfold write
  split
  · exact ⟨h.1.filter _, fun p hp => h.2 p (List.mem_filter.mp hp).1⟩
  · next hb =>
    refine ⟨insert_pairwise _ _ _ h.1, fun p hp => ?_⟩
    rcases mem_insert _ hp with rfl | hp
    · exact hb
    · exact h.2 p hp

/-- Every listed address after a write was listed before or is the written one. -/
theorem mem_write {a : Nat} {b : Byte} {p : Host.Cell} (h : p ∈ write c m a b) : p.1 = a ∨ p ∈ m := by
  unfold write at h
  split at h
  · exact .inr (List.mem_filter.mp h).1
  · exact (mem_insert _ h).imp_left fun h => by rw [h]

/-- A read after writes at `a, a+1, …`: the written byte inside, every other address as before (R74). -/
theorem read_writeBytes (bs : List Byte) (a x : Nat) :
    read c (writeBytes c m a bs) x =
      if a ≤ x ∧ x < a + bs.length then bs.getD (x - a) 0 else read c m x := by
  induction bs generalizing m a with
  | nil => simp [writeBytes]
  | cons b rest ih =>
    simp only [writeBytes, ih, read_write, List.length_cons]
    by_cases hx : x = a
    · subst hx; simp
    · by_cases hin : a + 1 ≤ x ∧ x < a + 1 + rest.length
      · have h1 : a ≤ x ∧ x < a + (rest.length + 1) := by omega
        have h2 : x - a = (x - (a + 1)) + 1 := by omega
        simp [hin, h1, h2]
      · have h1 : ¬(a ≤ x ∧ x < a + (rest.length + 1)) := by omega
        rw [if_neg hin, if_neg h1, if_neg hx]

theorem writeBytes_wf (bs : List Byte) (a : Nat) (h : wf c m) : wf c (writeBytes c m a bs) := by
  induction bs generalizing m a with
  | nil => exact h
  | cons b rest ih => exact ih _ _ (write_wf c m a b h)

theorem mem_writeBytes (bs : List Byte) (a : Nat) {p : Host.Cell} (h : p ∈ writeBytes c m a bs) :
    (a ≤ p.1 ∧ p.1 < a + bs.length) ∨ p ∈ m := by
  induction bs generalizing m a with
  | nil => exact .inr h
  | cons b rest ih =>
    rcases ih _ _ h with h | h
    · left; simp only [List.length_cons]; omega
    · rcases mem_write c m h with h | h
      · left; simp only [List.length_cons]; omega
      · exact .inr h

/-- A read after a ROM is placed: its bytes inside, every other address as before (R87). -/
theorem read_placeRom (bs : List Byte) (a x : Nat) :
    read c (placeRom c m a bs) x =
      if a ≤ x ∧ x < a + bs.length then bs.getD (x - a) 0 else read c m x := by
  induction bs generalizing a with
  | nil => simp [placeRom]
  | cons b rest ih =>
    simp only [placeRom, ih, read_write, List.length_cons]
    by_cases hx : x = a
    · subst hx; simp
    · by_cases hin : a + 1 ≤ x ∧ x < a + 1 + rest.length
      · have h1 : a ≤ x ∧ x < a + (rest.length + 1) := by omega
        have h2 : x - a = (x - (a + 1)) + 1 := by omega
        simp [hin, h1, h2, hx]
      · have h1 : ¬(a ≤ x ∧ x < a + (rest.length + 1)) := by omega
        rw [if_neg hx, if_neg hin, if_neg h1]

theorem placeRom_wf (bs : List Byte) (a : Nat) (h : wf c m) : wf c (placeRom c m a bs) := by
  induction bs generalizing a with
  | nil => exact h
  | cons b rest ih => exact write_wf c _ a b (ih (a + 1))

theorem mem_placeRom (bs : List Byte) (a : Nat) {p : Host.Cell} (h : p ∈ placeRom c m a bs) :
    (a ≤ p.1 ∧ p.1 < a + bs.length) ∨ p ∈ m := by
  induction bs generalizing a with
  | nil => exact .inr h
  | cons b rest ih =>
    simp only [List.length_cons]
    rcases mem_write c _ h with h | h
    · left; omega
    · rcases ih _ h with h | h
      · left; omega
      · exact .inr h

/-- Memory at construction is canonical. -/
theorem wf_nil : wf c [] := ⟨List.Pairwise.nil, fun _ h => absurd h List.not_mem_nil⟩

end Memory

/-! ### Reads of the state -/

variable (s : State)

theorem State.readByte_writeBytes (a x : Nat) (bs : List Byte) :
    (s.writeBytes a bs).readByte x =
      if a ≤ x ∧ x < a + bs.length then bs.getD (x - a) 0 else s.readByte x :=
  Memory.read_writeBytes s.cfg s.mem bs a x

/-- A read sees only the parameters and the memory. -/
theorem State.readByte_congr {s t : State} (hc : t.cfg = s.cfg) (hm : t.mem = s.mem) (a : Nat) :
    t.readByte a = s.readByte a := by rw [State.readByte, State.readByte, hc, hm]

/-! ### Access checks -/

/-- A check passes when it passes at every address. -/
theorem firstFault_eq_none_iff (check : Nat → Option Fault) (a n : Nat) :
    firstFault check a n = none ↔ ∀ k < n, check (a + k) = none := by
  induction n generalizing a with
  | zero => simp [firstFault]
  | succ n ih =>
    simp only [firstFault]
    cases hc : check a with
    | some r =>
      simp only [reduceCtorEq, false_iff, not_forall]
      exact ⟨0, Nat.succ_pos n, by simp [hc]⟩
    | none =>
      simp only [ih]
      constructor
      · intro h k hk
        cases k with
        | zero => simpa using hc
        | succ k => have := h k (by omega); rwa [Nat.add_assoc, Nat.add_comm 1 k] at this
      · intro h k hk
        have := h (k + 1) (by omega)
        rwa [Nat.add_assoc, Nat.add_comm 1 k]

/-- A check that fails reports the first address that fails (R78, R265). -/
theorem firstFault_eq_some_iff (check : Nat → Option Fault) (a n : Nat) (r : Fault) (x : Nat) :
    firstFault check a n = some (r, x) ↔
      a ≤ x ∧ x < a + n ∧ check x = some r ∧ ∀ y, a ≤ y → y < x → check y = none := by
  induction n generalizing a with
  | zero => simp only [firstFault, reduceCtorEq, false_iff]; rintro ⟨h1, h2, -⟩; omega
  | succ n ih =>
    simp only [firstFault]
    cases hc : check a with
    | some q =>
      simp only [Option.some.injEq, Prod.mk.injEq]
      constructor
      · rintro ⟨rfl, rfl⟩; exact ⟨le_rfl, by omega, hc, fun y h1 h2 => by omega⟩
      · rintro ⟨h1, -, h3, h4⟩
        rcases Nat.eq_or_lt_of_le h1 with rfl | hlt
        · rw [hc] at h3; exact ⟨Option.some.inj h3, rfl⟩
        · have := h4 a le_rfl hlt; simp [hc] at this
    | none =>
      simp only [ih]
      constructor
      · rintro ⟨h1, h2, h3, h4⟩
        refine ⟨by omega, by omega, h3, fun y hy hyx => ?_⟩
        rcases Nat.eq_or_lt_of_le hy with rfl | hlt
        · exact hc
        · exact h4 y hlt hyx
      · rintro ⟨h1, h2, h3, h4⟩
        rcases Nat.eq_or_lt_of_le h1 with rfl | hlt
        · simp [hc] at h3
        · exact ⟨hlt, by omega, h3, fun y hy hyx => h4 y (by omega) hyx⟩

theorem readFault_eq_none_iff (cap a : Nat) : readFault cap a = none ↔ a < cap := by
  unfold readFault; split <;> simp <;> omega

theorem writeFault_eq_none_iff (cap a : Nat) : writeFault cap a = none ↔ 0x200 ≤ a ∧ a < cap := by
  unfold writeFault; split
  · simp; omega
  · split <;> simp <;> omega

/-- `CheckRead` passes: no byte, or all of them below CAP (R76, R78). -/
theorem State.checkRead_eq_none_iff (a n : Nat) :
    s.checkRead a n = none ↔ n = 0 ∨ a + n ≤ s.cfg.cap := by
  simp only [State.checkRead, firstFault_eq_none_iff, readFault_eq_none_iff]
  constructor
  · intro h; rcases Nat.eq_zero_or_pos n with hn | hn
    · exact .inl hn
    · have := h (n - 1) (by omega); right; omega
  · rintro (rfl | h) k hk <;> omega

/-- `CheckWrite` passes: no byte, or all of them in `[0x200, CAP)` (R77, R78). -/
theorem State.checkWrite_eq_none_iff (a n : Nat) :
    s.checkWrite a n = none ↔ n = 0 ∨ (0x200 ≤ a ∧ a + n ≤ s.cfg.cap) := by
  simp only [State.checkWrite, firstFault_eq_none_iff, writeFault_eq_none_iff]
  constructor
  · intro h; rcases Nat.eq_zero_or_pos n with hn | hn
    · exact .inl hn
    · have h0 := h 0 hn; have h1 := h (n - 1) (by omega); right; omega
  · rintro (rfl | h) k hk <;> omega

/-- A failed read check is `MemOutOfRange` at the first address at or above CAP (R76, R78). -/
theorem State.checkRead_eq_some (a n : Nat) (hn : n ≠ 0) (h : s.cfg.cap < a + n) :
    s.checkRead a n = some (.memOutOfRange, max a s.cfg.cap) := by
  refine (firstFault_eq_some_iff _ _ _ _ _).mpr ⟨le_max_left _ _, by omega, ?_, fun y h1 h2 => ?_⟩
  · simp [readFault]
  · exact (readFault_eq_none_iff _ _).mpr (by omega)

/-- A write check that starts below 0x200 is `ProtectedWrite` there (R77, R78). -/
theorem State.checkWrite_eq_protected (a n : Nat) (hn : n ≠ 0) (ha : a < 0x200) (hc : a < s.cfg.cap) :
    s.checkWrite a n = some (.protectedWrite, a) := by
  refine (firstFault_eq_some_iff _ _ _ _ _).mpr ⟨le_rfl, by omega, ?_, fun y h1 h2 => by omega⟩
  simp only [writeFault]; rw [if_neg (by omega), if_pos ha]

/-- A write check that starts at or above 0x200 and runs past CAP is `MemOutOfRange` at the first address at or
above CAP (R77, R78). -/
theorem State.checkWrite_eq_range (a n : Nat) (ha : 0x200 ≤ a) (hn : n ≠ 0) (h : s.cfg.cap < a + n) :
    s.checkWrite a n = some (.memOutOfRange, max a s.cfg.cap) := by
  refine (firstFault_eq_some_iff _ _ _ _ _).mpr ⟨le_max_left _ _, by omega, ?_, fun y h1 h2 => ?_⟩
  · simp [writeFault]
  · exact (writeFault_eq_none_iff _ _).mpr (by omega)

/-- A guarded effect: the first failing check is raised, or the effect happens (R78). -/
theorem State.guarded_cases (failed : Option (Fault × Nat)) (effect t : State)
    (h : s.guarded failed effect = .next t) :
    (failed = none ∧ t = effect) ∨
      ∃ r a, failed = some (r, a) ∧ t = s.raiseFault r (BitVec.ofNat 17 a) := by
  cases failed with
  | none => exact .inl ⟨rfl, by simpa [State.guarded] using h.symm⟩
  | some p => exact .inr ⟨p.1, p.2, rfl, by simpa [State.guarded] using h.symm⟩

end Sys2Proof.Machine
end

