-- ==== Sys2Proof/Laws/Exec.lean ====
section
/-! SUPPORT. What each instruction can change, once for all: `exec_cases` says that an instruction takes a fault,
or ends `Stepped` or `WaitingKey` having changed only `pc` and the parts `writtenParts` lists. The statements about
single instructions say what it leaves there. Beside it, what a cycle and a step can be. -/

namespace Sys2Proof.Machine

/-- The parts of the state an instruction writes, beside `pc` and the outcome, when it takes no fault. -/
def writtenParts : Instr → List Part
  | .cls | .scd _ | .scu _ | .scr | .scl => [.framebuffer, .drawFlag]
  | .low | .high => [.resolution, .framebuffer, .drawFlag]
  | .ret | .call _ => [.stack]
  | .sys _ | .jp _ | .jpOffset _ | .seImm _ _ | .sneImm _ _ | .seReg _ _ | .sneReg _ _ | .skp _
  | .sknp _ => []
  | .ldImm _ _ | .addImm _ _ | .ldReg _ _ | .orReg _ _ | .andReg _ _ | .xorReg _ _ | .addReg _ _
  | .sub _ _ | .shr _ _ | .subn _ _ | .shl _ _ | .ldVxDt _ | .loadUser _ => [.regs]
  | .rnd _ _ => [.regs, .draws]
  | .drw _ _ _ => [.framebuffer, .drawFlag, .displayWait, .regs]
  | .ldVxK _ => [.keyWait, .regs]
  | .ldDtVx _ => [.delayTimer]
  | .ldStVx _ => [.soundTimer]
  | .ldI _ | .ldF _ | .ldHf _ => [.index]
  | .addI _ => [.index, .regs]
  | .ldB _ => [.memory]
  | .storeRegs _ => [.memory, .index]
  | .loadRegs _ => [.regs, .index]
  | .storeUser _ => [.userRegs]

/-- An instruction that writes `l` was taken whole. -/
def Whole (l : List Part) (s t : State) : Prop :=
  Frame (.pc :: .outcome :: l) s t ∧
    (t.lastOutcome = some .stepped ∨ t.lastOutcome = some .waitingKey)

/-- A fault was taken, or an instruction that writes `l` was taken whole. -/
def Ends (l : List Part) (s t : State) : Prop := (∃ r info, t = s.raiseFault r info) ∨ Whole l s t

section
variable {s t u : State} {l : List Part}

theorem whole_advance (d : Word) (h : Frame l s u) : Whole l s (u.advance d) :=
  ⟨h.trans (u.advance_frame d) (by simp) (by simp), .inl rfl⟩

theorem whole_jump (d : Word) (h : Frame l s u) : Whole l s (u.jump d) :=
  ⟨h.trans (u.jump_frame d) (by simp) (by simp), .inl rfl⟩

theorem ends_of_advance {d : Word} (h : (.next (u.advance d) : Result) = .next t) (hf : Frame l s u) :
    Ends l s t := by cases h; exact .inr (whole_advance d hf)

theorem ends_of_jump {d : Word} (h : (.next (u.jump d) : Result) = .next t) (hf : Frame l s u) :
    Ends l s t := by cases h; exact .inr (whole_jump d hf)

theorem ends_of_raise {r : Fault} {info : FaultInfo} (h : (.next (s.raiseFault r info) : Result) = .next t) :
    Ends l s t := by cases h; exact .inl ⟨r, info, rfl⟩

theorem ends_of_guarded {failed : Option (Fault × Nat)} (h : s.guarded failed u = .next t)
    (hw : Whole l s u) : Ends l s t := by
  rcases s.guarded_cases _ _ _ h with ⟨-, rfl⟩ | ⟨r, a, -, rfl⟩
  · exact .inr hw
  · exact .inl ⟨r, _, rfl⟩

theorem ends_of_onExtended (h : s.onExtended u = .next t) (hf : Frame l s u) : Ends l s t := by
  refine ends_of_advance h ?_
  split
  · exact hf
  · exact Frame.refl l s

theorem ends_of_keySkip {x : RegIdx} {b : Bool} (h : s.keySkip x b = .next t) : Ends l s t := by
  unfold State.keySkip at h
  split at h
  · exact ends_of_advance h (Frame.refl l s)
  · exact ends_of_raise h

theorem Whole.mono {k : List Part} (h : Whole l s t) (hl : l ⊆ k := by simp) : Whole k s t :=
  ⟨h.1.mono (List.cons_subset_cons _ (List.cons_subset_cons _ hl)), h.2⟩

end

variable {s t : State}

/-- The meanings with more than one shape. -/
theorem execRet_cases (h : execRet s = .next t) : Ends [.stack] s t := by
  unfold execRet at h
  split at h
  · exact ends_of_raise h
  · exact ends_of_jump h s.pop_frame

theorem execCall_cases {nnn : Addr12} (h : execCall nnn s = .next t) : Ends [.stack] s t := by
  unfold execCall at h
  split at h
  · exact ends_of_jump h (s.push_frame _)
  · exact ends_of_raise h

theorem execLdVxK_cases {x : RegIdx} (h : execLdVxK x s = .next t) : Ends [.keyWait, .regs] s t := by
  unfold execLdVxK at h
  split at h
  · cases h
    exact .inr ⟨(s.withKeyWait_frame _).trans (State.stay_frame _), .inr rfl⟩
  · cases h
    exact .inr ⟨s.stay_frame.mono, .inr rfl⟩
  · exact ends_of_advance h ((s.setReg_frame _ _).trans (State.withKeyWait_frame _ _))

theorem execLdHf_cases {x : RegIdx} (h : execLdHf x s = .next t) : Ends [.index] s t := by
  unfold execLdHf at h
  split at h
  · exact ends_of_advance h (s.withI_frame _)
  · exact ends_of_raise h

/-- What a draw that takes no fault leaves alone (R193, R117). -/
theorem execDrw_cases {x y : RegIdx} {n : Count} (h : execDrw x y n s = .next t) :
    Ends [.framebuffer, .drawFlag, .displayWait, .regs] s t := by
  refine ends_of_guarded h ⟨?_, ?_⟩
  · refine Frame.trans (whole_advance (l := [.framebuffer, .drawFlag, .regs]) 2 ?_).1
      (State.waitForDisplay_frame _)
    exact (s.present_frame _).trans (State.setFlag_frame _ _)
  · unfold State.waitForDisplay; split <;> exact .inl rfl

/-- Every instruction takes a fault, or is taken whole and changes only `pc`, the outcome and the parts it writes. -/
theorem exec_cases {i : Instr} (h : exec i s = .next t) : Ends (writtenParts i) s t := by
  cases i with
  | cls => exact ends_of_advance h (s.present_frame _)
  | ret => exact execRet_cases h
  | scd n => exact ends_of_onExtended h (s.present_frame _)
  | scu n => exact ends_of_onExtended h (s.present_frame _)
  | scr => exact ends_of_onExtended h (s.present_frame _)
  | scl => exact ends_of_onExtended h (s.present_frame _)
  | low =>
    exact ends_of_onExtended (l := [.resolution, .framebuffer, .drawFlag]) h
      ((s.withHiresFlag_frame _).trans (State.present_frame _ _))
  | high =>
    exact ends_of_onExtended (l := [.resolution, .framebuffer, .drawFlag]) h
      ((s.withHiresFlag_frame _).trans (State.present_frame _ _))
  | sys nnn => exact ends_of_advance h (Frame.refl _ s)
  | jp nnn => exact ends_of_jump h (Frame.refl _ s)
  | call nnn => exact execCall_cases h
  | seImm x nn => exact ends_of_advance h (Frame.refl _ s)
  | sneImm x nn => exact ends_of_advance h (Frame.refl _ s)
  | seReg x y => exact ends_of_advance h (Frame.refl _ s)
  | ldImm x nn => exact ends_of_advance h (s.setReg_frame _ _)
  | addImm x nn => exact ends_of_advance h (s.setReg_frame _ _)
  | ldReg x y => exact ends_of_advance h (s.setReg_frame _ _)
  | orReg x y => exact ends_of_advance (l := [.regs]) h ((s.setReg_frame _ _).trans (State.logicReset_frame _))
  | andReg x y => exact ends_of_advance (l := [.regs]) h ((s.setReg_frame _ _).trans (State.logicReset_frame _))
  | xorReg x y => exact ends_of_advance (l := [.regs]) h ((s.setReg_frame _ _).trans (State.logicReset_frame _))
  | addReg x y => exact ends_of_advance h (s.setRegFlag_frame _ _ _)
  | sub x y => exact ends_of_advance h (s.setRegFlag_frame _ _ _)
  | shr x y => exact ends_of_advance h (s.setRegFlag_frame _ _ _)
  | subn x y => exact ends_of_advance h (s.setRegFlag_frame _ _ _)
  | shl x y => exact ends_of_advance h (s.setRegFlag_frame _ _ _)
  | sneReg x y => exact ends_of_advance h (Frame.refl _ s)
  | ldI nnn => exact ends_of_advance h (s.withI_frame _)
  | jpOffset nnn => exact ends_of_jump h (Frame.refl _ s)
  | rnd x nn =>
    exact ends_of_advance (l := [.regs, .draws]) h
      ((s.setReg_frame _ _).trans (State.withRngDraws_frame _ _))
  | drw x y n => exact execDrw_cases h
  | skp x => exact ends_of_keySkip h
  | sknp x => exact ends_of_keySkip h
  | ldVxDt x => exact ends_of_advance h (s.setReg_frame _ _)
  | ldVxK x => exact execLdVxK_cases h
  | ldDtVx x => exact ends_of_advance h (s.withDt_frame _)
  | ldStVx x => exact ends_of_advance h (s.withSt_frame _)
  | addI x => exact ends_of_advance (l := [.index, .regs]) h ((s.withI_frame _).trans (State.addressFlag_frame _ _))
  | ldF x => exact ends_of_advance h (s.withI_frame _)
  | ldHf x => exact execLdHf_cases h
  | ldB x => exact ends_of_guarded h (whole_advance 2 (s.writeBytes_frame _ _))
  | storeRegs x =>
    exact ends_of_guarded (l := [.memory, .index]) h
      (whole_advance 2 ((s.writeBytes_frame _ _).trans (State.withI_frame _ _)))
  | loadRegs x =>
    exact ends_of_guarded (l := [.regs, .index]) h
      (whole_advance 2 ((s.setRegsUpTo_frame _ _).trans (State.withI_frame _ _)))
  | storeUser x =>
    refine ends_of_advance h ?_
    split
    · exact s.withUserRegs_frame _
    · exact Frame.refl _ s
  | loadUser x =>
    refine ends_of_advance h ?_
    split
    · exact s.setRegsUpTo_frame _ _
    · exact Frame.refl _ s

/-! ### The memory list

A frame compares memory byte by byte; for the canonical form the list itself is needed. -/

/-- The memory list after an instruction: as before, or with bytes written at `I`, all in `[0x200, CAP)`. -/
def MemoryEnds (s t : State) : Prop :=
  t.mem = s.mem ∨ ∃ bs, 0x200 ≤ s.i.toNat ∧ s.i.toNat + bs.length ≤ s.cfg.cap ∧
    t.mem = Memory.writeBytes s.cfg s.mem s.i.toNat bs

theorem mem_of_next {u : State} (h : (.next u : Result) = .next t) (hu : u.mem = s.mem) : t.mem = s.mem := by
  cases h; exact hu

theorem mem_of_guarded {u : State} {failed : Option (Fault × Nat)} (h : s.guarded failed u = .next t)
    (hu : u.mem = s.mem) : t.mem = s.mem := by
  rcases s.guarded_cases _ _ _ h with ⟨-, rfl⟩ | ⟨r, a, -, rfl⟩
  · exact hu
  · rfl

theorem mem_of_onExtended {u : State} (h : s.onExtended u = .next t) (hu : u.mem = s.mem) :
    t.mem = s.mem := by
  refine mem_of_next h ?_
  show State.mem (ite _ _ _) = _
  split
  · exact hu
  · rfl

theorem mem_of_keySkip {x : RegIdx} {b : Bool} (h : s.keySkip x b = .next t) : t.mem = s.mem := by
  unfold State.keySkip at h
  split at h <;> exact mem_of_next h rfl

@[simp] theorem State.advance_mem (d : Word) : (s.advance d).mem = s.mem := rfl

@[simp] theorem State.jump_mem (a : Word) : (s.jump a).mem = s.mem := rfl

@[simp] theorem State.stay_mem : s.stay.mem = s.mem := rfl

@[simp] theorem State.skipIf_mem (b : Bool) : (s.skipIf b).mem = s.mem := rfl

@[simp] theorem State.raiseFault_mem (r : Fault) (info : FaultInfo) : (s.raiseFault r info).mem = s.mem := rfl

@[simp] theorem State.push_mem (h : s.sp.val < 16) : (s.push h).mem = s.mem := rfl

@[simp] theorem State.pop_mem : s.pop.mem = s.mem := rfl

@[simp] theorem State.setReg_mem (r : RegIdx) (b : Byte) : (s.setReg r b).mem = s.mem := rfl

@[simp] theorem State.setFlag_mem (b : Byte) : (s.setFlag b).mem = s.mem := rfl

@[simp] theorem State.setRegFlag_mem (r : RegIdx) (b c : Byte) : (s.setRegFlag r b c).mem = s.mem := by
  simp [State.setRegFlag]

@[simp] theorem State.setRegsUpTo_mem (x : RegIdx) (f : RegIdx → Byte) : (s.setRegsUpTo x f).mem = s.mem := rfl

@[simp] theorem State.setUserRegsUpTo_mem (x : RegIdx) (f : RegIdx → Byte) :
    (s.setUserRegsUpTo x f).mem = s.mem := rfl

@[simp] theorem State.present_mem (g : Gfx) : (s.present g).mem = s.mem := rfl

@[simp] theorem State.scrollBy_mem (m : Nat × Nat → Option (Nat × Nat)) : (s.scrollBy m).mem = s.mem := by
  simp [State.scrollBy]

@[simp] theorem State.selectResolution_mem (b : Bool) : (s.selectResolution b).mem = s.mem := by
  simp [State.selectResolution]

@[simp] theorem State.writeBytes_mem (a : Nat) (bs : List Byte) :
    (s.writeBytes a bs).mem = Memory.writeBytes s.cfg s.mem a bs := rfl

@[simp] theorem State.logicReset_mem : s.logicReset.mem = s.mem := by
  unfold State.logicReset; split <;> rfl

@[simp] theorem State.addressFlag_mem (o : Bool) : (s.addressFlag o).mem = s.mem := by
  unfold State.addressFlag; split <;> [rfl; split <;> rfl]

@[simp] theorem State.waitForDisplay_mem : s.waitForDisplay.mem = s.mem := by
  unfold State.waitForDisplay; split <;> rfl

theorem memoryEnds_of_store {u : State} {bs : List Byte} (hbs : bs.length ≠ 0)
    (h : s.guarded (s.checkWrite (s.dataAddr 0) bs.length) u = .next t)
    (hu : u.mem = Memory.writeBytes s.cfg s.mem s.i.toNat bs) : MemoryEnds s t := by
  rcases s.guarded_cases _ _ _ h with ⟨hc, rfl⟩ | ⟨r, a, -, rfl⟩
  · have := ((s.checkWrite_eq_none_iff _ _).mp hc).resolve_left hbs
    exact .inr ⟨bs, this.1, this.2, hu⟩
  · exact .inl rfl

/-- What every instruction does to the memory list (R72, R77). -/
theorem exec_memory {i : Instr} (h : exec i s = .next t) : MemoryEnds s t := by
  cases i with
  | cls => exact .inl (mem_of_next h (by simp))
  | ret => simp only [exec, execRet] at h; split at h <;> exact .inl (mem_of_next h (by simp))
  | scd n => exact .inl (mem_of_onExtended h (by simp))
  | scu n => exact .inl (mem_of_onExtended h (by simp))
  | scr => exact .inl (mem_of_onExtended h (by simp))
  | scl => exact .inl (mem_of_onExtended h (by simp))
  | low => exact .inl (mem_of_onExtended h (by simp))
  | high => exact .inl (mem_of_onExtended h (by simp))
  | sys nnn => exact .inl (mem_of_next h (by simp))
  | jp nnn => exact .inl (mem_of_next h (by simp))
  | call nnn => simp only [exec, execCall] at h; split at h <;> exact .inl (mem_of_next h (by simp))
  | seImm x nn => exact .inl (mem_of_next h (by simp))
  | sneImm x nn => exact .inl (mem_of_next h (by simp))
  | seReg x y => exact .inl (mem_of_next h (by simp))
  | ldImm x nn => exact .inl (mem_of_next h (by simp))
  | addImm x nn => exact .inl (mem_of_next h (by simp))
  | ldReg x y => exact .inl (mem_of_next h (by simp))
  | orReg x y => exact .inl (mem_of_next h (by simp))
  | andReg x y => exact .inl (mem_of_next h (by simp))
  | xorReg x y => exact .inl (mem_of_next h (by simp))
  | addReg x y => exact .inl (mem_of_next h (by simp))
  | sub x y => exact .inl (mem_of_next h (by simp))
  | shr x y => exact .inl (mem_of_next h (by simp))
  | subn x y => exact .inl (mem_of_next h (by simp))
  | shl x y => exact .inl (mem_of_next h (by simp))
  | sneReg x y => exact .inl (mem_of_next h (by simp))
  | ldI nnn => exact .inl (mem_of_next h (by simp))
  | jpOffset nnn => exact .inl (mem_of_next h (by simp))
  | rnd x nn => exact .inl (mem_of_next h (by simp))
  | drw x y n => exact .inl (mem_of_guarded h (by simp))
  | skp x => exact .inl (mem_of_keySkip h)
  | sknp x => exact .inl (mem_of_keySkip h)
  | ldVxDt x => exact .inl (mem_of_next h (by simp))
  | ldVxK x => simp only [exec, execLdVxK] at h; split at h <;> exact .inl (mem_of_next h (by simp))
  | ldDtVx x => exact .inl (mem_of_next h (by simp))
  | ldStVx x => exact .inl (mem_of_next h (by simp))
  | addI x => exact .inl (mem_of_next h (by simp))
  | ldF x => exact .inl (mem_of_next h (by simp))
  | ldHf x => simp only [exec, execLdHf] at h; split at h <;> exact .inl (mem_of_next h (by simp))
  | ldB x => exact memoryEnds_of_store (bs := bcdDigits (s.reg x)) (by simp [bcdDigits]) h (by simp [State.dataAddr])
  | storeRegs x =>
    refine memoryEnds_of_store (bs := s.regsUpTo x)
      (u := ((s.writeBytes (s.dataAddr 0) (s.regsUpTo x)).withI (s.afterTransfer x)).advance 2) (by simp) ?_
      (by simp [State.dataAddr])
    rw [State.regsUpTo_length]; exact h
  | loadRegs x => exact .inl (mem_of_guarded h (by simp))
  | storeUser x =>
    refine .inl (mem_of_next h ?_)
    rw [State.advance_mem]; split <;> simp
  | loadUser x =>
    refine .inl (mem_of_next h ?_)
    rw [State.advance_mem]; split <;> simp

/-! ### The cycle and the step -/

theorem fetchable_iff (s : State) :
    s.fetchable = true ↔ 0x200 ≤ s.pc.toNat ∧ s.pc.toNat + 1 < s.cfg.cap := by simp [State.fetchable]

/-- What a cycle with a next state was: gated by a fault or the display wait, a fault of the fetch or of the decode,
or the instruction fetched (R120). -/
theorem cycle_cases (h : s.cycle = .next t) :
    (s.fault ≠ none ∧ t = s.withLastOutcome (some .faulted)) ∨
    (s.fault = none ∧ s.displayWait = true ∧ t = s.withLastOutcome (some .waitingDisplay)) ∨
    (s.fault = none ∧ s.displayWait = false ∧
      ((∃ r info, t = s.raiseFault r info) ∨
        ∃ i, s.fetchable = true ∧ decodeWord s.cfg.variant s.fetch = .ok i ∧ exec i s = .next t)) := by
  unfold State.cycle at h
  split at h
  · next hf => cases h; exact .inl ⟨Option.isSome_iff_ne_none.mp hf, rfl⟩
  · next hf =>
    have hf : s.fault = none := by simpa using hf
    split at h
    · next hw => cases h; exact .inr (.inl ⟨hf, hw, rfl⟩)
    · next hw =>
      refine .inr (.inr ⟨hf, by simpa using hw, ?_⟩)
      split at h
      · next hr =>
        unfold State.run at h
        split at h
        · next i hd => exact .inr ⟨i, hr, hd, h⟩
        · cases h; exact .inl ⟨_, _, rfl⟩
      · cases h; exact .inl ⟨_, _, rfl⟩

theorem step_of_nil (h : s.hostEvents = []) : step s = s.cycle := by unfold step; rw [h]

theorem step_of_cons {e : HostEvent} {rest : List HostEvent} (h : s.hostEvents = e :: rest) :
    step s = (s.withHostEvents rest).apply e := by unfold step; rw [h]

/-- What a load with a next state was (R87). -/
theorem load_cases {rom : List Byte} (h : s.load rom = .next t) :
    s.lastOutcome = none ∧ s.romLoaded = false ∧ 0x200 + rom.length ≤ s.cfg.cap ∧
      t = (s.withMem (Memory.placeRom s.cfg s.mem 0x200 rom)).withRomLoaded true := by
  unfold State.load at h
  split at h
  · next hl =>
    simp only [State.loadable, Bool.and_eq_true, Option.isNone_iff_eq_none, Bool.not_eq_true'] at hl
    split at h
    · next hr => cases h; exact ⟨hl.1, hl.2, hr, rfl⟩
    · cases h
  · cases h

/-- A relation that a cycle, a tick, a key event, an acknowledge and a load meet, and that taking an event off the
schedule does not disturb, holds of every step. -/
theorem step_induction {P : State → State → Prop}
    (hnil : ∀ s t, s.hostEvents = [] → s.cycle = .next t → P s t)
    (hcycle : ∀ s rest t, (s.withHostEvents rest).cycle = .next t → P s t)
    (htick : ∀ s rest, P s (s.withHostEvents rest).tick)
    (hkey : ∀ s rest k pressed, P s ((s.withHostEvents rest).keyEvent k pressed))
    (hack : ∀ s rest, P s (s.withHostEvents rest).displayAck)
    (hload : ∀ s rest rom t, (s.withHostEvents rest).load rom = .next t → P s t)
    (h : step s = .next t) : P s t := by
  cases he : s.hostEvents with
  | nil => exact hnil s t he (step_of_nil he ▸ h)
  | cons e rest =>
    rw [step_of_cons he] at h
    cases e with
    | cycle => exact hcycle s rest t h
    | tick => cases h; exact htick s rest
    | keyEvent k pressed => cases h; exact hkey s rest k pressed
    | displayAck => cases h; exact hack s rest
    | load rom => exact hload s rest rom t h

end Sys2Proof.Machine
end

