-- ==== Sys2Proof/Laws/PerInstr.lean ====
section
/-! SUPPORT. Per instruction: the encoder's word has the fixed bits of the instruction's row of the opcode
table (spec/30_encoding.md R94, spec/opcode_table.json). -/

namespace Sys2Proof.Laws.FixedBits

/-- The word of `i` matches the mask and pattern of its row. -/
def Statement (i : Instr) : Prop := encodeWord i &&& i.row.mask = i.row.pattern

/-- A mask on the family alone. -/
theorem family (f x y n : Nibble) : word4 f x y n &&& word4 15 0 0 0 = word4 f 0 0 0 := by
  rw [word4_and]; simp

/-- A mask on the family and the last field. -/
theorem familyN (f x y n : Nibble) : word4 f x y n &&& word4 15 0 0 15 = word4 f 0 0 n := by
  rw [word4_and]; simp

/-- A mask on the family and the low byte. -/
theorem familyNN (f x y n : Nibble) : word4 f x y n &&& word4 15 0 15 15 = word4 f 0 y n := by
  rw [word4_and]; simp

/-- A mask on all but the last field. -/
theorem allButN (f x y n : Nibble) : word4 f x y n &&& word4 15 15 15 0 = word4 f x y 0 := by
  rw [word4_and]; simp

theorem cls : Statement (.cls) :=
  rfl

theorem ret : Statement (.ret) :=
  rfl

theorem scd (n : Count) : Statement (.scd n) :=
  (congrArg (· &&& _) (packXYN_eq_word4 ..)).trans (allButN ..)

theorem scu (n : Count) : Statement (.scu n) :=
  (congrArg (· &&& _) (packXYN_eq_word4 ..)).trans (allButN ..)

theorem scr : Statement (.scr) :=
  rfl

theorem scl : Statement (.scl) :=
  rfl

theorem low : Statement (.low) :=
  rfl

theorem high : Statement (.high) :=
  rfl

theorem sys (nnn : Addr12) : Statement (.sys nnn) :=
  (congrArg (· &&& _) (packNNN_eq_word4 ..)).trans (family ..)

theorem jp (nnn : Addr12) : Statement (.jp nnn) :=
  (congrArg (· &&& _) (packNNN_eq_word4 ..)).trans (family ..)

theorem call (nnn : Addr12) : Statement (.call nnn) :=
  (congrArg (· &&& _) (packNNN_eq_word4 ..)).trans (family ..)

theorem seImm (x : RegIdx) (nn : Byte) : Statement (.seImm x nn) :=
  (congrArg (· &&& _) (packXNN_eq_word4 ..)).trans (family ..)

theorem sneImm (x : RegIdx) (nn : Byte) : Statement (.sneImm x nn) :=
  (congrArg (· &&& _) (packXNN_eq_word4 ..)).trans (family ..)

theorem seReg (x : RegIdx) (y : RegIdx) : Statement (.seReg x y) :=
  (congrArg (· &&& _) (packXYN_eq_word4 ..)).trans (familyN ..)

theorem ldImm (x : RegIdx) (nn : Byte) : Statement (.ldImm x nn) :=
  (congrArg (· &&& _) (packXNN_eq_word4 ..)).trans (family ..)

theorem addImm (x : RegIdx) (nn : Byte) : Statement (.addImm x nn) :=
  (congrArg (· &&& _) (packXNN_eq_word4 ..)).trans (family ..)

theorem ldReg (x : RegIdx) (y : RegIdx) : Statement (.ldReg x y) :=
  (congrArg (· &&& _) (packXYN_eq_word4 ..)).trans (familyN ..)

theorem orReg (x : RegIdx) (y : RegIdx) : Statement (.orReg x y) :=
  (congrArg (· &&& _) (packXYN_eq_word4 ..)).trans (familyN ..)

theorem andReg (x : RegIdx) (y : RegIdx) : Statement (.andReg x y) :=
  (congrArg (· &&& _) (packXYN_eq_word4 ..)).trans (familyN ..)

theorem xorReg (x : RegIdx) (y : RegIdx) : Statement (.xorReg x y) :=
  (congrArg (· &&& _) (packXYN_eq_word4 ..)).trans (familyN ..)

theorem addReg (x : RegIdx) (y : RegIdx) : Statement (.addReg x y) :=
  (congrArg (· &&& _) (packXYN_eq_word4 ..)).trans (familyN ..)

theorem sub (x : RegIdx) (y : RegIdx) : Statement (.sub x y) :=
  (congrArg (· &&& _) (packXYN_eq_word4 ..)).trans (familyN ..)

theorem shr (x : RegIdx) (y : RegIdx) : Statement (.shr x y) :=
  (congrArg (· &&& _) (packXYN_eq_word4 ..)).trans (familyN ..)

theorem subn (x : RegIdx) (y : RegIdx) : Statement (.subn x y) :=
  (congrArg (· &&& _) (packXYN_eq_word4 ..)).trans (familyN ..)

theorem shl (x : RegIdx) (y : RegIdx) : Statement (.shl x y) :=
  (congrArg (· &&& _) (packXYN_eq_word4 ..)).trans (familyN ..)

theorem sneReg (x : RegIdx) (y : RegIdx) : Statement (.sneReg x y) :=
  (congrArg (· &&& _) (packXYN_eq_word4 ..)).trans (familyN ..)

theorem ldI (nnn : Addr12) : Statement (.ldI nnn) :=
  (congrArg (· &&& _) (packNNN_eq_word4 ..)).trans (family ..)

theorem jpOffset (nnn : Addr12) : Statement (.jpOffset nnn) :=
  (congrArg (· &&& _) (packNNN_eq_word4 ..)).trans (family ..)

theorem rnd (x : RegIdx) (nn : Byte) : Statement (.rnd x nn) :=
  (congrArg (· &&& _) (packXNN_eq_word4 ..)).trans (family ..)

theorem drw (x : RegIdx) (y : RegIdx) (n : Count) : Statement (.drw x y n) :=
  (congrArg (· &&& _) (packXYN_eq_word4 ..)).trans (family ..)

theorem skp (x : RegIdx) : Statement (.skp x) :=
  (congrArg (· &&& _) (packXNN_eq_word4 ..)).trans (familyNN ..)

theorem sknp (x : RegIdx) : Statement (.sknp x) :=
  (congrArg (· &&& _) (packXNN_eq_word4 ..)).trans (familyNN ..)

theorem ldVxDt (x : RegIdx) : Statement (.ldVxDt x) :=
  (congrArg (· &&& _) (packXNN_eq_word4 ..)).trans (familyNN ..)

theorem ldVxK (x : RegIdx) : Statement (.ldVxK x) :=
  (congrArg (· &&& _) (packXNN_eq_word4 ..)).trans (familyNN ..)

theorem ldDtVx (x : RegIdx) : Statement (.ldDtVx x) :=
  (congrArg (· &&& _) (packXNN_eq_word4 ..)).trans (familyNN ..)

theorem ldStVx (x : RegIdx) : Statement (.ldStVx x) :=
  (congrArg (· &&& _) (packXNN_eq_word4 ..)).trans (familyNN ..)

theorem addI (x : RegIdx) : Statement (.addI x) :=
  (congrArg (· &&& _) (packXNN_eq_word4 ..)).trans (familyNN ..)

theorem ldF (x : RegIdx) : Statement (.ldF x) :=
  (congrArg (· &&& _) (packXNN_eq_word4 ..)).trans (familyNN ..)

theorem ldHf (x : RegIdx) : Statement (.ldHf x) :=
  (congrArg (· &&& _) (packXNN_eq_word4 ..)).trans (familyNN ..)

theorem ldB (x : RegIdx) : Statement (.ldB x) :=
  (congrArg (· &&& _) (packXNN_eq_word4 ..)).trans (familyNN ..)

theorem storeRegs (x : RegIdx) : Statement (.storeRegs x) :=
  (congrArg (· &&& _) (packXNN_eq_word4 ..)).trans (familyNN ..)

theorem loadRegs (x : RegIdx) : Statement (.loadRegs x) :=
  (congrArg (· &&& _) (packXNN_eq_word4 ..)).trans (familyNN ..)

theorem storeUser (x : RegIdx) : Statement (.storeUser x) :=
  (congrArg (· &&& _) (packXNN_eq_word4 ..)).trans (familyNN ..)

theorem loadUser (x : RegIdx) : Statement (.loadUser x) :=
  (congrArg (· &&& _) (packXNN_eq_word4 ..)).trans (familyNN ..)

end Sys2Proof.Laws.FixedBits
end

