-- ==== Sys2Proof/Laws/Stack.lean ====
section
/-! SUPPORT. Every instruction but `2NNN` and `00EE` runs the same whatever the stack holds and leaves it alone; and a
transition that is a Cycle, explicit or not, begins in the dequeued state. -/

namespace Sys2Proof.Machine

variable {s t : State} (other : Vector Word 16)

/-! ### The stack does not matter to the other instructions -/

theorem next_withStack {u : State} (h : (.next u : Result) = .next t) :
    (.next (u.withStack other) : Result) = .next (t.withStack other) := by cases h; rfl

theorem guarded_withStack {failed : Option (Fault × Nat)} {u : State} (h : s.guarded failed u = .next t) :
    (s.withStack other).guarded failed (u.withStack other) = .next (t.withStack other) := by
  cases failed <;> exact next_withStack other h

theorem onExtended_withStack {u : State} (h : s.onExtended u = .next t) :
    (s.withStack other).onExtended (u.withStack other) = .next (t.withStack other) := by
  refine Eq.trans (congrArg Host.Outcome.next ?_) (next_withStack other h)
  show State.advance (ite (s.cfg.variant.isExtended = true) (u.withStack other) (s.withStack other)) 2 = _
  split <;> rfl

theorem keySkip_withStack {x : RegIdx} {b : Bool} (h : s.keySkip x b = .next t) :
    (s.withStack other).keySkip x b = .next (t.withStack other) := by
  unfold State.keySkip at *
  have same : keyIndex (s.withStack other).cfg.keyIndexPolicy ((s.withStack other).reg x) =
      keyIndex s.cfg.keyIndexPolicy (s.reg x) := rfl
  rw [same]
  cases hk : keyIndex s.cfg.keyIndexPolicy (s.reg x) <;> rw [hk] at h <;> exact next_withStack other h

theorem logicReset_withStack : (s.withStack other).logicReset = s.logicReset.withStack other := by
  unfold State.logicReset
  show ite (s.cfg.variant = .chip8) _ _ = _
  split <;> rfl

theorem addressFlag_withStack (o : Bool) : (s.withStack other).addressFlag o = (s.addressFlag o).withStack other := by
  unfold State.addressFlag
  have same : (s.withStack other).cfg.fx1eVfNoOvf = s.cfg.fx1eVfNoOvf := rfl
  rw [same]
  cases o with
  | true => rfl
  | false => cases s.cfg.fx1eVfNoOvf <;> rfl

theorem waitForDisplay_withStack : (s.withStack other).waitForDisplay = s.waitForDisplay.withStack other := by
  unfold State.waitForDisplay
  show ite ((s.cfg.variant.loresDisplayWait && !s.hires) = true) _ _ = _
  split <;> rfl

theorem execLdVxK_withStack {x : RegIdx} (h : execLdVxK x s = .next t) :
    execLdVxK x (s.withStack other) = .next (t.withStack other) := by
  unfold execLdVxK at *
  have same : (s.withStack other).keyWait = s.keyWait := rfl
  rw [same]
  cases hk : s.keyWait <;> rw [hk] at h <;> exact next_withStack other h

theorem execLdHf_withStack {x : RegIdx} (h : execLdHf x s = .next t) :
    execLdHf x (s.withStack other) = .next (t.withStack other) := by
  unfold execLdHf at *
  show ite (s.cfg.variant.isExtended = true) _ _ = _
  split at h <;> rename_i hv
  · rw [if_pos hv]; exact next_withStack other h
  · rw [if_neg hv]; exact next_withStack other h

theorem execDrw_withStack {x y : RegIdx} {n : Count} (h : execDrw x y n s = .next t) :
    execDrw x y n (s.withStack other) = .next (t.withStack other) := by
  refine Eq.trans (congrArg (State.guarded _ _) ?_) (guarded_withStack other h)
  have drawn : (s.withStack other).drawSprite ((s.withStack other).spriteGeom x y n) =
      s.drawSprite (s.spriteGeom x y n) := rfl
  rw [drawn]
  exact waitForDisplay_withStack
    (s := ((s.present (s.drawSprite (s.spriteGeom x y n)).1).setFlag
      (collisionFlag (s.drawSprite (s.spriteGeom x y n)).2)).advance 2) other

theorem execAddI_withStack {x : RegIdx} (h : execAddI x s = .next t) :
    execAddI x (s.withStack other) = .next (t.withStack other) := by
  refine Eq.trans (congrArg Host.Outcome.next ?_) (next_withStack other h)
  exact congrArg (fun u : State => u.advance 2) (addressFlag_withStack (s := s.withI _) other _)

theorem logic_withStack {u : State} (h : (.next (u.logicReset.advance 2) : Result) = .next t) :
    (.next ((u.withStack other).logicReset.advance 2) : Result) = .next (t.withStack other) := by
  rw [logicReset_withStack]; exact next_withStack other h

theorem selectResolution_withStack (high : Bool) :
    (s.withStack other).selectResolution high = (s.selectResolution high).withStack other := rfl

theorem execStoreUser_withStack {x : RegIdx} (h : execStoreUser x s = .next t) :
    execStoreUser x (s.withStack other) = .next (t.withStack other) := by
  refine Eq.trans (congrArg Host.Outcome.next ?_) (next_withStack other h)
  show State.advance (ite (userInRange s.cfg x = true) _ _) _ = _
  split <;> rfl

theorem execLoadUser_withStack {x : RegIdx} (h : execLoadUser x s = .next t) :
    execLoadUser x (s.withStack other) = .next (t.withStack other) := by
  refine Eq.trans (congrArg Host.Outcome.next ?_) (next_withStack other h)
  show State.advance (ite (userInRange s.cfg x = true) _ _) _ = _
  split <;> rfl

/-- Every instruction but `2NNN` and `00EE` runs the same whatever the stack holds, and keeps it (R39). -/
theorem exec_withStack {i : Instr} (hr : i ≠ .ret) (hc : ∀ nnn, i ≠ .call nnn) (h : exec i s = .next t) :
    exec i (s.withStack other) = .next (t.withStack other) := by
  cases i with
  | ret => exact absurd rfl hr
  | call nnn => exact absurd rfl (hc nnn)
  | scd n => exact onExtended_withStack other h
  | scu n => exact onExtended_withStack other h
  | scr => exact onExtended_withStack other h
  | scl => exact onExtended_withStack other h
  | low => exact onExtended_withStack other h
  | high => exact onExtended_withStack other h
  | orReg x y => exact logic_withStack other h
  | andReg x y => exact logic_withStack other h
  | xorReg x y => exact logic_withStack other h
  | drw x y n => exact execDrw_withStack other h
  | skp x => exact keySkip_withStack other h
  | sknp x => exact keySkip_withStack other h
  | ldVxK x => exact execLdVxK_withStack other h
  | addI x => exact execAddI_withStack other h
  | ldHf x => exact execLdHf_withStack other h
  | ldB x => exact guarded_withStack other h
  | storeRegs x => exact guarded_withStack other h
  | loadRegs x => exact guarded_withStack other h
  | storeUser x => exact execStoreUser_withStack other h
  | loadUser x => exact execLoadUser_withStack other h
  | cls | sys | jp | seImm | sneImm | seReg | sneReg | ldImm | addImm | ldReg | addReg | sub | shr | subn | shl
  | jpOffset | rnd | ldI | ldVxDt | ldDtVx | ldStVx | ldF => exact next_withStack other h

/-! ### The dequeued state -/

variable (s)

@[simp] theorem State.dequeue_cfg : s.dequeue.cfg = s.cfg := rfl

@[simp] theorem State.dequeue_pc : s.dequeue.pc = s.pc := rfl

@[simp] theorem State.dequeue_fault : s.dequeue.fault = s.fault := rfl

@[simp] theorem State.dequeue_displayWait : s.dequeue.displayWait = s.displayWait := rfl

@[simp] theorem State.dequeue_hostEvents : s.dequeue.hostEvents = s.hostEvents.tail := rfl

@[simp] theorem State.dequeue_readByte (a : Nat) : s.dequeue.readByte a = s.readByte a := rfl

@[simp] theorem State.dequeue_fetch : s.dequeue.fetch = s.fetch := rfl

@[simp] theorem State.dequeue_fetchable : s.dequeue.fetchable = s.fetchable := rfl

theorem State.dequeue_frame : Frame [.schedule] s s.dequeue := s.withHostEvents_frame _

variable {s}

theorem State.dequeue_of_nil (h : s.hostEvents = []) : s.dequeue = s := by
  unfold State.dequeue State.withHostEvents
  rw [h, List.tail_nil, ← h]

/-- A transition that is a Cycle, explicit or not, is the cycle of the dequeued state (R269, log 6). -/
theorem step_of_cycleNext (h : CycleNext s) : step s = s.dequeue.cycle := by
  rcases h with h | ⟨rest, h⟩
  · rw [step_of_nil h, State.dequeue_of_nil h]
  · rw [step_of_cons h]; unfold State.dequeue; rw [h]; rfl

end Sys2Proof.Machine
end

