-- ==== Sys2Proof/Tests/Slice0.lean ====
section
/-! SUPPORT. Tests of the model: the well-formedness checks refuse ill-formed terms, words written out bit by bit from
spec/30_encoding.md R94 decode to their instructions, single steps give the values of spec/95_test_vectors.md (the id
of each vector stands in its docstring), and a witness for every statement that has hypotheses. -/

namespace Sys2Proof.Tests

open Sys2Proof Sys2Proof.Machine

/-! ### Helpers -/

/-- A start state: construction with some registers set. -/
def start (v : Variant) (regs : List (RegIdx × Byte)) : State :=
  regs.foldl (fun s p => s.setReg p.1 p.2) (State.construct (Config.ofVariant v))

/-- The answer is a next state with a property. -/
def ends (r : Result) (p : State → Bool) : Bool :=
  match r with
  | .next t => p t
  | _ => false

/-- The answer is the fault `f` with `info`, taken at 0x200, and the rest as it was. -/
def faults (r : Result) (s : State) (f : Fault) (info : Nat) : Bool :=
  ends r fun t => t.fault == some f && t.faultPc == s.pc && t.faultInfo.toNat == info && t.pc == s.pc &&
    t.v == s.v && t.i == s.i && t.gfx == s.gfx && t.mem == s.mem && t.lastOutcome == some .faulted

/-- On every variant. -/
def onAll (p : Variant → Bool) : Bool := p .chip8 && p .schip && p .xochip

/-- On the variants with the SuperChip instructions. -/
def onExt (p : Variant → Bool) : Bool := p .schip && p .xochip

/-- A word decodes to an instruction on a variant, and the instruction encodes to the word. -/
def isWord (w : Word) (i : Instr) (v : Variant) : Bool :=
  encodeWord i == w &&
    match decodeWord v w with
    | .ok j => j == i
    | .error _ => false

/-- A word is illegal on a variant, with its class. -/
def illegal (w : Word) (why : Illegal) (v : Variant) : Bool :=
  match decodeWord v w with
  | .ok _ => false
  | .error e => e == why

/-- The start state in high resolution, with some cells set. -/
def hires (v : Variant) (g : Gfx) : State := ((start v []).withHiresFlag true).withGfx g

/-! ### Well-formedness: what each check refuses -/

/-- The "S/X" instructions are refused on CHIP8 (R94). -/
theorem test_wf_extended :
    [Instr.scd 1, .scu 1, .scr, .scl, .low, .high, .ldHf 0].all (fun i =>
      !i.wf .chip8 && i.wf .schip && i.wf .xochip) = true := by decide

/-- `0NNN` with the `NNN` of an instruction every variant has is refused everywhere (R95). -/
theorem test_wf_sys_all :
    [Instr.sys 0x0E0, .sys 0x0EE].all (fun i => onAll fun v => !i.wf v) = true := by decide

/-- `0NNN` with the `NNN` of an "S/X" instruction is refused where that instruction exists, and only there (R95). -/
theorem test_wf_sys_extended :
    [Instr.sys 0x0C0, .sys 0x0CF, .sys 0x0D0, .sys 0x0DF, .sys 0x0FB, .sys 0x0FC, .sys 0x0FE, .sys 0x0FF].all
      (fun i => i.wf .chip8 && !i.wf .schip && !i.wf .xochip) = true := by decide

/-- The neighbours of those `NNN` are well formed (R96). -/
theorem test_wf_sys_neighbours :
    [Instr.sys 0x0BF, .sys 0x0E1, .sys 0x0EF, .sys 0x0FA, .sys 0x0FD, .sys 0x1E0, .sys 0xFFF].all
      (fun i => onAll i.wf) = true := by decide

/-! ### Decoding: the patterns of R94, bit by bit -/

theorem test_decode_family0 :
    (onAll (isWord 0b0000000011100000 .cls) && onAll (isWord 0b0000000011101110 .ret) &&
      onAll (isWord 0b0000000100100011 (.sys 0x123)) && onAll (isWord 0b0000000011111101 (.sys 0x0FD))) = true := by
  decide

theorem test_decode_family0_extended :
    (onExt (isWord 0b0000000011000101 (.scd 5)) && onExt (isWord 0b0000000011011010 (.scu 10)) &&
      onExt (isWord 0b0000000011111011 .scr) && onExt (isWord 0b0000000011111100 .scl) &&
      onExt (isWord 0b0000000011111110 .low) && onExt (isWord 0b0000000011111111 .high)) = true := by decide

/-- On CHIP8 the same words are the no-op (R95). -/
theorem test_decode_family0_chip8 :
    (isWord 0b0000000011000101 (.sys 0x0C5) .chip8 && isWord 0b0000000011011010 (.sys 0x0DA) .chip8 &&
      isWord 0b0000000011111011 (.sys 0x0FB) .chip8 && isWord 0b0000000011111111 (.sys 0x0FF) .chip8) = true := by
  decide

theorem test_decode_jumps :
    (onAll (isWord 0b0001001100100001 (.jp 0x321)) && onAll (isWord 0b0010101010111100 (.call 0xABC)) &&
      onAll (isWord 0b1011001111110000 (.jpOffset 0x3F0))) = true := by decide

theorem test_decode_skips :
    (onAll (isWord 0b0011000100010000 (.seImm 1 0x10)) && onAll (isWord 0b0100000100010000 (.sneImm 1 0x10)) &&
      onAll (isWord 0b0101000100100000 (.seReg 1 2)) && onAll (isWord 0b1001000100100000 (.sneReg 1 2)) &&
      onAll (isWord 0b1110000110011110 (.skp 1)) && onAll (isWord 0b1110000110100001 (.sknp 1))) = true := by decide

theorem test_decode_immediates :
    (onAll (isWord 0b0110101001000010 (.ldImm 10 0x42)) && onAll (isWord 0b0111110100000010 (.addImm 13 0x02)) &&
      onAll (isWord 0b1010000100100011 (.ldI 0x123)) && onAll (isWord 0b1100000100001111 (.rnd 1 0x0F))) = true := by
  decide

theorem test_decode_family8 :
    (onAll (isWord 0b1000000100100000 (.ldReg 1 2)) && onAll (isWord 0b1000000100100001 (.orReg 1 2)) &&
      onAll (isWord 0b1000000100100010 (.andReg 1 2)) && onAll (isWord 0b1000000100100011 (.xorReg 1 2)) &&
      onAll (isWord 0b1000101010110100 (.addReg 10 11)) && onAll (isWord 0b1000000100100101 (.sub 1 2)) &&
      onAll (isWord 0b1000000100100110 (.shr 1 2)) && onAll (isWord 0b1000000100100111 (.subn 1 2)) &&
      onAll (isWord 0b1000000100101110 (.shl 1 2))) = true := by decide

theorem test_decode_draw : onAll (isWord 0b1101000100100101 (.drw 1 2 5)) = true := by decide

theorem test_decode_familyF :
    (onAll (isWord 0b1111010100000111 (.ldVxDt 5)) && onAll (isWord 0b1111001100001010 (.ldVxK 3)) &&
      onAll (isWord 0b1111010100010101 (.ldDtVx 5)) && onAll (isWord 0b1111010100011000 (.ldStVx 5)) &&
      onAll (isWord 0b1111001000011110 (.addI 2)) && onAll (isWord 0b1111010000101001 (.ldF 4)) &&
      onExt (isWord 0b1111010000110000 (.ldHf 4)) && onAll (isWord 0b1111000000110011 (.ldB 0))) = true := by decide

theorem test_decode_transfers :
    (onAll (isWord 0b1111001101010101 (.storeRegs 3)) && onAll (isWord 0b1111001001100101 (.loadRegs 2)) &&
      onAll (isWord 0b1111000101110101 (.storeUser 1)) && onAll (isWord 0b1111000110000101 (.loadUser 1))) = true := by
  decide

/-- The illegal words of vectors X-1 to X-7. -/
theorem test_decode_illegal :
    (onAll (illegal 0x5121 .fiveXYN) && onAll (illegal 0x9128 .nineXYN) && onAll (illegal 0x8128 .eightXYN) &&
      onAll (illegal 0x812F .eightXYN) && onAll (illegal 0xE000 .eXNN) && onAll (illegal 0xE19F .eXNN) &&
      onAll (illegal 0xF0FF .fXNN) && onAll (illegal 0xF101 .fXNN) && onAll (illegal 0xF000 .fXNN) &&
      illegal 0xF030 .fx30OnChip8 .chip8) = true := by decide

/-- The decoder reads two bytes, the first the high one, and leaves the rest; one byte is refused (R90, R73). -/
theorem test_decode_bytes :
    (decode .chip8 [0x13, 0x21, 0x55]).toOption = some (.jp 0x321, [0x55]) ∧
      (decode .chip8 [0x13]).toOption = none := by decide

theorem test_decodeTableWord :
    decodeTableWord 16 0x00FF = some .high ∧ decodeTableWord 16 0x5121 = none := by decide

/-! ### Memory -/

theorem test_reset_memory_wf : Memory.wf State.reset.cfg State.reset.mem := by decide

/-- The fonts at construction: glyph 7 of R49, digit 1 of R50, and CHIP8 has no second font. -/
theorem test_fonts :
    (start .schip []).readByte 0x024 = 0x10 ∧ (start .schip []).readByte 0x05B = 0x38 ∧
      (start .chip8 []).readByte 0x05B = 0 := by decide

/-- Writing what an unlisted address reads as takes the entry off the list. -/
theorem test_write_canonical :
    Memory.write (Config.ofVariant .chip8) [(0x300, 7)] 0x300 0 = [] := by decide

/-! ### Arithmetic and logic (vectors A-n) -/

/-- A-1, A-3. -/
theorem test_loads :
    (onAll (fun v => ends (exec (.ldImm 10 0x42) (start v [])) fun t => t.reg 10 == 0x42 && t.pc == 0x202) &&
      onAll (fun v => ends (exec (.ldReg 1 2) (start v [(2, 0x33)])) fun t => t.reg 1 == 0x33)) = true := by
  decide

/-- A-2, S3. -/
theorem test_addImm :
    onAll (fun v => ends (exec (.addImm 0 0xFF) (start v [(0, 1), (15, 0x55)])) fun t =>
      t.reg 0 == 0 && t.reg 15 == 0x55) = true := by decide

/-- A-4, A-5. -/
theorem test_or :
    (ends (exec (.orReg 1 2) (start .chip8 [(1, 0x0F), (2, 0xF0), (15, 0x55)])) (fun t =>
        t.reg 1 == 0xFF && t.reg 15 == 0) &&
      onExt (fun v => ends (exec (.orReg 1 2) (start v [(1, 0x0F), (2, 0xF0), (15, 0x55)])) fun t =>
        t.reg 1 == 0xFF && t.reg 15 == 0x55)) = true := by decide

/-- A-8. -/
theorem test_or_vf :
    (ends (exec (.orReg 15 1) (start .chip8 [(15, 0x0F), (1, 0xF0)])) (fun t => t.reg 15 == 0) &&
      onExt (fun v => ends (exec (.orReg 15 1) (start v [(15, 0x0F), (1, 0xF0)])) fun t =>
        t.reg 15 == 0xFF)) = true := by decide

/-- A-6. -/
theorem test_and :
    onAll (fun v => ends (exec (.andReg 1 2) (start v [(1, 0x3C), (2, 0x0F), (15, 0x55)])) fun t =>
      t.reg 1 == 0x0C && t.reg 15 == (if v = .chip8 then 0 else 0x55)) = true := by decide

/-- A-7. -/
theorem test_xor :
    onAll (fun v => ends (exec (.xorReg 1 2) (start v [(1, 0x3C), (2, 0x0F), (15, 0x55)])) fun t =>
      t.reg 1 == 0x33 && t.reg 15 == (if v = .chip8 then 0 else 0x55)) = true := by decide

/-- A-9, A-13. -/
theorem test_addReg :
    (onAll (fun v => ends (exec (.addReg 1 2) (start v [(1, 0xFF), (2, 1)])) fun t =>
        t.reg 1 == 0 && t.reg 15 == 1) &&
      onAll (fun v => ends (exec (.addReg 15 1) (start v [(15, 0xFF), (1, 2)])) fun t =>
        t.reg 15 == 1)) = true := by decide

/-- A-15, A-16. -/
theorem test_sub :
    (onAll (fun v => ends (exec (.sub 1 2) (start v [(1, 5), (2, 7)])) fun t =>
        t.reg 1 == 0xFE && t.reg 15 == 0) &&
      onAll (fun v => ends (exec (.sub 1 2) (start v [(1, 7), (2, 7)])) fun t =>
        t.reg 1 == 0 && t.reg 15 == 1)) = true := by decide

/-- A-24, A-25. -/
theorem test_subn :
    (onAll (fun v => ends (exec (.subn 1 2) (start v [(1, 5), (2, 7)])) fun t =>
        t.reg 1 == 2 && t.reg 15 == 1) &&
      onAll (fun v => ends (exec (.subn 1 2) (start v [(1, 1), (2, 0)])) fun t =>
        t.reg 1 == 0xFF && t.reg 15 == 0)) = true := by decide

/-- A-19, A-20, A-23. -/
theorem test_shr :
    (ends (exec (.shr 1 2) (start .xochip [(2, 5)])) (fun t => t.reg 1 == 2 && t.reg 15 == 1) &&
      ends (exec (.shr 1 2) (start .schip [(2, 5)])) (fun t => t.reg 1 == 0 && t.reg 15 == 0) &&
      ends (exec (.shr 15 2) (start .schip [(15, 0xAA), (2, 3)])) (fun t => t.reg 15 == 0)) = true := by decide

/-- A-26, A-27, A-28. -/
theorem test_shl :
    (ends (exec (.shl 1 2) (start .chip8 [(2, 0x81)])) (fun t => t.reg 1 == 2 && t.reg 15 == 1) &&
      ends (exec (.shl 1 2) (start .schip [(2, 0x81)])) (fun t => t.reg 1 == 0 && t.reg 15 == 0) &&
      onAll (fun v => ends (exec (.shl 1 1) (start v [(1, 0x80)])) fun t =>
        t.reg 1 == 0 && t.reg 15 == 1)) = true := by decide

/-- A-31: whatever is drawn, a zero mask leaves 0. -/
theorem test_rnd_zero_mask : ∃ t, exec (.rnd 1 0) (start .chip8 [(1, 7)]) = .next t ∧ t.reg 1 = 0 :=
  ⟨_, rfl, BitVec.and_zero⟩

/-! ### Control flow (vectors C-n, K-n) -/

/-- C-1. -/
theorem test_jp : onAll (fun v => ends (exec (.jp 0x321) (start v [])) fun t => t.pc == 0x321) = true := by decide

/-- C-3, C-4. -/
theorem test_call :
    (onAll (fun v => ends (exec (.call 0x300) (start v [])) fun t =>
        t.stack[0] == 0x200 && t.sp == 1 && t.pc == 0x300) &&
      onAll (fun v => faults (exec (.call 0xABC) ((start v []).withSp 16)) (start v []) .stackOverflow
        0xABC)) = true := by decide

/-- C-5 (S1), C-6. -/
theorem test_ret :
    (onAll (fun v => ends (exec .ret ((((start v []).withPc 0x400).withSp 1).withStack
        (Vector.replicate 16 0x600))) fun t => t.pc == 0x602 && t.sp == 0) &&
      onAll (fun v => faults (exec .ret (start v [])) (start v []) .stackUnderflow 0)) = true := by decide

/-- C-7 to C-10. -/
theorem test_jpOffset :
    (onAll (fun v => ends (exec (.jpOffset 0x3F0) (start v [(0, 4), (3, 0x10)])) fun t =>
        t.pc == (if v = .schip then 0x400 else 0x3F4)) &&
      onAll (fun v => ends (exec (.jpOffset 0xFFF) (start v [(0, 0xFF), (15, 0x77)])) fun t =>
        t.pc == (if v = .schip then 0x1076 else 0x10FE))) = true := by decide

/-- C-12. -/
theorem test_sys :
    onAll (fun v => ends (exec (.sys 0x123) (start v [])) fun t =>
      t.pc == 0x202 && t.withPc 0x200 == (start v []).withLastOutcome (some .stepped)) = true := by decide

/-- K-1, K-2. -/
theorem test_seImm :
    (onAll (fun v => ends (exec (.seImm 1 0x10) (start v [(1, 0x10)])) fun t => t.pc == 0x204) &&
      onAll (fun v => ends (exec (.seImm 1 0x11) (start v [(1, 0x10)])) fun t => t.pc == 0x202)) = true := by
  decide

/-- K-3. -/
theorem test_sneImm :
    onAll (fun v => ends (exec (.sneImm 1 0x10) (start v [(1, 0x10)])) fun t => t.pc == 0x202) = true := by decide

/-- K-4, K-6, K-7. -/
theorem test_register_skips :
    (onAll (fun v => ends (exec (.seReg 1 2) (start v [(1, 7), (2, 7)])) fun t => t.pc == 0x204) &&
      onAll (fun v => ends (exec (.sneReg 1 2) (start v [(1, 7), (2, 8)])) fun t => t.pc == 0x204) &&
      onAll (fun v => ends (exec (.sneReg 1 1) (start v [])) fun t => t.pc == 0x202)) = true := by decide

/-- K-8, K-9, K-11. -/
theorem test_key_skips :
    (onAll (fun v => ends (exec (.skp 1) ((start v [(1, 5)]).keyEvent 5 true)) fun t => t.pc == 0x204) &&
      onAll (fun v => ends (exec (.skp 1) (start v [(1, 5)])) fun t => t.pc == 0x202) &&
      onAll (fun v => ends (exec (.sknp 1) ((start v [(1, 5)]).keyEvent 5 true)) fun t => t.pc == 0x202)) =
      true := by decide

/-- K-12. -/
theorem test_key_index :
    onAll (fun v => faults (exec (.skp 1) (start v [(1, 0x10)])) (start v [(1, 0x10)]) .keyIndexOutOfRange
      0x10) = true := by decide

/-- K-20, K-21. -/
theorem test_key_wait :
    (onAll (fun v => ends (exec (.ldVxK 3) (start v [])) fun t =>
        t.keyWait == .armed && t.pc == 0x200 && t.lastOutcome == some .waitingKey) &&
      onAll (fun v => ends (exec (.ldVxK 3) (((start v []).withKeyWait .armed).keyEvent 7 true)) fun t =>
        t.reg 3 == 7 && t.keyWait == .idle && t.pc == 0x202)) = true := by decide

/-! ### Display (vectors D-n) -/

/-- D-1. -/
theorem test_cls :
    onAll (fun v => ends (exec .cls ((start v []).withGfx [(0, 0), (3, 5)])) fun t =>
      t.gfx == [] && t.drawFlag) = true := by decide

/-- D-3, D-4: glyph 0 at (62, 30), clipped and wrapped. -/
theorem test_drw_edges :
    (ends (exec (.drw 0 1 5) (start .schip [(0, 62), (1, 30)])) (fun t =>
        t.gfx == [(30, 62), (30, 63), (31, 62)] && t.reg 15 == 0 && t.displayWait) &&
      ends (exec (.drw 0 1 5) (start .xochip [(0, 62), (1, 30)])) (fun t =>
        t.gfx == [(0, 1), (0, 62), (1, 1), (1, 62), (2, 0), (2, 1), (2, 62), (2, 63), (30, 0), (30, 1),
          (30, 62), (30, 63), (31, 1), (31, 62)] && t.reg 15 == 0 && !t.displayWait)) = true := by decide

/-- D-6, D-9. -/
theorem test_drw_vf_and_fault :
    (ends (exec (.drw 15 15 1) (start .chip8 [(15, 3)])) (fun t =>
        t.gfx == [(3, 3), (3, 4), (3, 5), (3, 6)] && t.reg 15 == 0) &&
      faults (exec (.drw 0 1 0) ((hires .xochip []).withI 0xFFFF)) ((start .xochip []).withI 0xFFFF)
        .memOutOfRange 0x10000) = true := by decide

/-- D-13 to D-16. -/
theorem test_scrolls :
    (onExt (fun v => ends (exec (.scd 3) (hires v [(0, 5)])) fun t => t.gfx == [(3, 5)] && t.drawFlag) &&
      onExt (fun v => ends (exec (.scu 3) (hires v [(3, 5)])) fun t => t.gfx == [(0, 5)]) &&
      onExt (fun v => ends (exec .scr (hires v [(2, 0)])) fun t => t.gfx == [(2, 4)]) &&
      onExt (fun v => ends (exec .scl (hires v [(2, 4)])) fun t => t.gfx == [(2, 0)])) = true := by decide

/-- D-17, D-19: cells that leave the surface are lost. -/
theorem test_scroll_edges :
    (onExt (fun v => ends (exec .scr (hires v [(2, 126)])) fun t => t.gfx == []) &&
      ends (exec (.scd 1) ((start .schip []).withGfx [(31, 0), (31, 1), (31, 2), (31, 3)])) fun t =>
        t.gfx == []) = true := by decide

/-- D-20, D-21. -/
theorem test_resolution :
    (ends (exec .low (hires .schip [(0, 0)])) (fun t => t.gfx == [(0, 0)] && !t.hiresFlag) &&
      ends (exec .high ((start .xochip []).withGfx [(0, 0)])) (fun t => t.gfx == [] && t.hiresFlag)) =
      true := by decide

/-! ### Address register, transfers, timers (vectors M-n, T-n) -/

/-- M-1, M-2, M-3. -/
theorem test_address :
    (onAll (fun v => ends (exec (.ldI 0x123) (start v [])) fun t => t.i == 0x123) &&
      ends (exec (.addI 2) ((start .schip [(2, 2)]).withI 0xFFF)) (fun t => t.i == 1 && t.reg 15 == 1) &&
      ends (exec (.addI 2) ((start .xochip [(2, 2)]).withI 0xFFF)) (fun t => t.i == 0x1001 && t.reg 15 == 0)) =
      true := by decide

/-- M-5, M-6. -/
theorem test_address_wraps :
    (ends (exec (.addI 2) ((start .xochip [(2, 1)]).withI 0xFFFF)) (fun t => t.i == 0 && t.reg 15 == 1) &&
      ends (exec (.addI 15) ((start .chip8 [(15, 1)]).withI 0xFFF)) (fun t => t.i == 0 && t.reg 15 == 1)) =
      true := by decide

/-- M-7, M-8, M-10, M-11. -/
theorem test_glyphs :
    (onAll (fun v => ends (exec (.ldF 4) (start v [(4, 0x07)])) fun t => t.i == 0x023) &&
      onAll (fun v => ends (exec (.ldF 4) (start v [(4, 0x1A)])) fun t => t.i == 0x032) &&
      onExt (fun v => ends (exec (.ldHf 4) ((start v [(4, 0x0C)]).withI 0x123)) fun t => t.i == 0x123) &&
      onExt (fun v => ends (exec (.ldHf 4) ((start v [(4, 0x19)]).withI 0x123)) fun t => t.i == 0x0AA)) =
      true := by decide

/-- M-13, M-F1. -/
theorem test_bcd :
    (onAll (fun v => ends (exec (.ldB 0) ((start v [(0, 254)]).withI 0x300)) fun t =>
        t.readByte 0x300 == 2 && t.readByte 0x301 == 5 && t.readByte 0x302 == 4) &&
      faults (exec (.ldB 0) ((start .chip8 [(0, 254)]).withI 0xFFE)) ((start .chip8 [(0, 254)]).withI 0xFFE)
        .memOutOfRange 0x1000) = true := by decide

/-- M-17 (S4), M-F5. -/
theorem test_store :
    (onAll (fun v => ends (exec (.storeRegs 3) ((start v [(0, 1), (1, 2), (2, 3), (3, 4)]).withI 0xC60)) fun t =>
        t.readByte 0xC60 == 1 && t.readByte 0xC63 == 4 && t.readByte 0xC64 == 0 &&
          t.i == (if v = .schip then 0xC60 else 0xC64)) &&
      onAll (fun v => faults (exec (.storeRegs 1) ((start v []).withI 0x00F)) ((start v []).withI 0x00F)
        .protectedWrite 0x00F)) = true := by decide

/-- M-20, M-F6. -/
theorem test_load :
    (onAll (fun v => ends (exec (.loadRegs 0) (start v [])) fun t =>
        t.reg 0 == 0xF0 && t.i == (if v = .schip then 0 else 1)) &&
      faults (exec (.loadRegs 15) ((start .chip8 []).withI 0xFF1)) ((start .chip8 []).withI 0xFF1)
        .memOutOfRange 0x1000) = true := by decide

/-- M-24, M-25, M-28. -/
theorem test_storeUser :
    (ends (exec (.storeUser 7) (start .schip [(0, 1), (7, 8)])) (fun t => t.userReg 0 == 1 && t.userReg 7 == 8) &&
      ends (exec (.storeUser 8) (start .schip [(0, 1), (8, 9)])) (fun t => t.userReg 0 == 0 && t.pc == 0x202) &&
      ends (exec (.storeUser 1) (start .chip8 [(0, 1)])) (fun t => t.userReg 0 == 0 && t.pc == 0x202)) =
      true := by decide

/-- M-29, M-30. -/
theorem test_loadUser :
    (onExt (fun v => ends (exec (.loadUser 1) ((start v []).withUserRegs (Vector.replicate 16 9))) fun t =>
        t.reg 0 == 9 && t.reg 1 == 9 && t.reg 2 == 0) &&
      ends (exec (.loadUser 8) ((start .schip []).withUserRegs (Vector.replicate 16 9))) (fun t =>
        t.reg 0 == 0)) = true := by decide

/-- T-1, T-2, T-3. -/
theorem test_timers :
    (onAll (fun v => ends (exec (.ldVxDt 5) ((start v []).withDt 0x3C)) fun t => t.reg 5 == 0x3C) &&
      onAll (fun v => ends (exec (.ldDtVx 5) (start v [(5, 0x3C)])) fun t => t.dt == 0x3C) &&
      onAll (fun v => ends (exec (.ldStVx 5) (start v [(5, 2)])) fun t => t.st == 2 && t.tone)) = true := by
  decide

/-! ### Steps and host events -/

/-- C-15, C-17, C-18: the fetch range, and an odd `pc`. -/
theorem test_fetch_range :
    (onAll (fun v => ends (step ((start v []).withPc 0x1FE)) fun t =>
        t.fault == some .pcOutOfRange && t.faultInfo == 0x1FE && t.pc == 0x1FE) &&
      ends (step ((start .schip []).withPc 0xFFF)) (fun t => t.fault == some .pcOutOfRange) &&
      ends (step (((start .xochip []).withPc 0xFFF).withFetchWord 16 0x1234)) (fun t => t.pc == 0x234)) =
      true := by decide

/-- X-1, M-12: an illegal word faults with itself. -/
theorem test_illegal_step :
    (onAll (fun v => ends (step ((start v []).withFetchWord 16 0x5121)) fun t =>
        t.fault == some .illegalOpcode && t.faultInfo == 0x5121 && t.pc == 0x200) &&
      ends (step ((start .chip8 []).withFetchWord 16 0xF430)) fun t =>
        t.fault == some .illegalOpcode && t.faultInfo == 0xF430) = true := by decide

/-- T-4, T-5, T-7, E-3. -/
theorem test_host_events :
    (ends (step ((((start .chip8 []).withDt 3).withSt 1).withHostEvents [.tick])) (fun t =>
        t.dt == 2 && t.st == 0 && !t.tone) &&
      ends (step ((start .chip8 []).withHostEvents [.tick])) (fun t => t.dt == 0) &&
      ends (step ((((start .chip8 []).withFault (some .stackOverflow)).withDt 5).withHostEvents [.tick])) (fun t =>
        t.dt == 5) &&
      ends (step ((((start .chip8 []).withFault (some .stackOverflow)).withDrawFlag true).withHostEvents
        [.displayAck])) fun t => !t.drawFlag) = true := by decide

/-- A load puts the ROM at 0x200 and the next step runs its first word (S2). -/
theorem test_load_then_run :
    ends (step ((start .chip8 []).withHostEvents [.load [0x13, 0x21]])) (fun s =>
      ends (step s) fun t => t.pc == 0x321) = true := by decide

/-! ### Witnesses: states and operands that meet the hypotheses of the statements

One for each statement with hypotheses, and one for each clause with a hypothesis of its own, at the ends of its
range. -/

/-- A state after a fault. -/
def faulted (v : Variant) : State := (start v []).raiseFault .pcOutOfRange 0x200

theorem wit_DecodeOfEncode :
    Instr.wf .chip8 (.sys 0x0C5) = true ∧ Instr.wf .schip (.scd 15) = true ∧
      Instr.wf .xochip (.drw 15 0 15) = true := by decide

theorem wit_EncodeOfDecode : decodeWord .chip8 0x00C5 = .ok (.sys 0x0C5) := rfl

/-- Each class of illegal words is met. -/
theorem wit_IllegalWordsExact :
    decodeWord .schip 0x500F = .error .fiveXYN ∧ decodeWord .schip 0x9001 = .error .nineXYN ∧
      decodeWord .schip 0x8FFF = .error .eightXYN ∧ decodeWord .schip 0xE09F = .error .eXNN ∧
      decodeWord .schip 0xF031 = .error .fXNN ∧ decodeWord .chip8 0xF030 = .error .fx30OnChip8 :=
  ⟨rfl, rfl, rfl, rfl, rfl, rfl⟩

/-- At the last fetchable address of CHIP8, with an empty schedule and with an explicit Cycle event. -/
theorem wit_StepRunsDecoded :
    ∀ events ∈ [[], [HostEvent.cycle, .tick]],
      let s := ((start .chip8 []).withPc 0xFFE).withHostEvents events
      GatesOpen s ∧ 0x200 ≤ s.pc.toNat ∧ s.pc.toNat + 1 < s.cfg.cap ∧
        decode s.cfg.variant [s.readByte s.pc.toNat, s.readByte (s.pc.toNat + 1)] = .ok (.sys 0, []) := by
  simp only [List.forall_mem_cons, List.not_mem_nil, false_imp_iff, implies_true, and_true]
  exact ⟨⟨⟨.inl rfl, rfl, rfl⟩, by decide, by decide, rfl⟩, ⟨.inr ⟨_, rfl⟩, rfl, rfl⟩, by decide, by decide, rfl⟩

theorem wit_PlacedWordRuns :
    let s := (start .xochip []).withPc 0xFFFE
    0x200 ≤ s.pc.toNat ∧ s.pc.toNat + 1 < s.cfg.cap ∧ decodeWord s.cfg.variant 0xFF65 = .ok (.loadRegs 15) :=
  ⟨by decide, by decide, rfl⟩

theorem wit_CycleGates :
    (CycleNext (faulted .chip8) ∧ CycleNext ((faulted .chip8).withHostEvents [.cycle]) ∧
      (faulted .chip8).fault ≠ none) ∧
    (let s := (start .chip8 []).withDisplayWait true;
      CycleNext s ∧ s.fault = none ∧ s.displayWait = true) ∧
    (let s := (start .chip8 []).withPc 0x1FF;
      CycleNext s ∧ s.fault = none ∧ s.displayWait = false ∧ s.pc.toNat < 0x200) ∧
    (let s := (start .chip8 []).withPc 0xFFF;
      CycleNext s ∧ s.fault = none ∧ s.displayWait = false ∧ s.cfg.cap ≤ s.pc.toNat + 1) :=
  ⟨⟨.inl rfl, .inr ⟨_, rfl⟩, by decide⟩, ⟨.inl rfl, rfl, rfl⟩, ⟨.inl rfl, rfl, rfl, by decide⟩,
    .inl rfl, rfl, rfl, by decide⟩

/-- An illegal word at `pc` with an explicit Cycle event, and a state after the fault that steps on under a tick. -/
theorem wit_IllegalOpcodeFault :
    let s := ((start .chip8 []).placeOpcode 0x5121).withHostEvents [.cycle]
    GatesOpen s ∧ 0x200 ≤ s.pc.toNat ∧ s.pc.toNat + 1 < s.cfg.cap ∧
      (0x5121 : Word).toNat = (s.readByte s.pc.toNat).toNat * 256 + (s.readByte (s.pc.toNat + 1)).toNat ∧
      decodeWord s.cfg.variant 0x5121 = .error .fiveXYN ∧
      ∃ t, step s = .next t ∧ ∃ u, step (t.withHostEvents [.tick]) = .next u :=
  ⟨⟨.inr ⟨_, rfl⟩, rfl, rfl⟩, by decide, by decide, by decide, rfl, _, rfl, _, rfl⟩

theorem wit_EveryStepCompletes : ∀ rom rest, State.reset.hostEvents ≠ .load rom :: rest := by
  intro rom rest h; cases h

theorem wit_FaultsArePrecise :
    let s := ((start .chip8 []).placeOpcode 0x5121).withHostEvents [.cycle]
    CycleNext s ∧ s.fault = none ∧ ∃ t, step s = .next t ∧ t.fault ≠ none :=
  ⟨.inr ⟨_, rfl⟩, rfl, _, rfl, by decide⟩

theorem wit_FaultsAreFinal : (faulted .xochip).fault ≠ none ∧ ∃ t, step (faulted .xochip) = .next t :=
  ⟨by decide, _, rfl⟩

theorem wit_PcMovesByDelta :
    ends (exec (.jp 1) (start .chip8 [])) (fun t => t.lastOutcome != some .faulted) = true ∧
      ends (exec (.skp 0) (start .chip8 [(0, 15)])) (fun t => t.lastOutcome != some .faulted) = true ∧
      ends (exec (.ldVxK 0) (start .chip8 [])) (fun t => t.lastOutcome != some .faulted) = true ∧
      ends (exec (.ldVxK 0) ((start .chip8 []).withKeyWait (.captured 15))) (fun t =>
        t.lastOutcome != some .faulted) = true ∧
      ends (exec .cls (start .chip8 [])) (fun t => t.lastOutcome != some .faulted) = true := by decide

theorem wit_TickCountsDown :
    ((faulted .chip8).withHostEvents [.tick]).hostEvents = [.tick] ∧ (faulted .chip8).fault ≠ none ∧
      (start .chip8 []).fault = none := by decide

theorem wit_KeyEventsDriveTheWait :
    let s := ((start .chip8 []).withKeyWait .armed).withHostEvents [.keyEvent 15 true]
    s.hostEvents = [.keyEvent 15 true] ∧ s.fault = none ∧ s.keyWait = .armed ∧ s.keyState[15] = false ∧
      (start .chip8 []).keyWait ≠ .armed ∧ ((start .chip8 []).keyEvent 15 true).keyState[15] = true := by decide

/-- A ROM that just fits CHIP8, one a byte longer, and a second load. -/
theorem wit_AckAndLoad :
    (start .chip8 []).lastOutcome = none ∧ (start .chip8 []).romLoaded = false ∧
      (List.replicate 3584 (0 : Byte)).length + 0x200 ≤ (start .chip8 []).cfg.cap ∧
      (start .chip8 []).cfg.cap < (List.replicate 3585 (0 : Byte)).length + 0x200 ∧
      ((start .chip8 []).withRomLoaded true).romLoaded = true := by
  refine ⟨rfl, rfl, ?_, ?_, rfl⟩ <;> rw [List.length_replicate] <;> decide

theorem wit_next : ∃ t, step (State.reset) = .next t := ⟨_, rfl⟩

theorem wit_IndexStaysBelowCap :
    let s := (start .chip8 []).withI 0xFFF
    s.cfg.Wf ∧ s.i.toNat < s.cfg.cap ∧ ∃ t, step s = .next t := ⟨by decide, by decide, _, rfl⟩

theorem wit_DisplayWriters :
    ends (exec .high (start .xochip [])) (fun t => t.hiresFlag && t.drawFlag) = true ∧
      ends (exec (.drw 0 0 1) (start .chip8 [])) (fun t => t.displayWait && t.gfx != []) = true := by decide

theorem wit_StateWriters :
    ends (exec (.call 0) (start .chip8 [])) (fun t => t.sp != 0) = true ∧
      ends (exec (.storeUser 7) (start .schip [(7, 1)])) (fun t => t.userReg 7 != 0) = true ∧
      ends (exec (.ldDtVx 0) (start .chip8 [(0, 1)])) (fun t => t.dt != 0) = true ∧
      ends (exec (.ldStVx 0) (start .chip8 [(0, 1)])) (fun t => t.st != 0) = true ∧
      ends (exec (.ldVxK 0) (start .chip8 [])) (fun t => t.keyWait != .idle) = true ∧
      ends (exec (.loadRegs 0) (start .chip8 [])) (fun t => t.i != 0) = true ∧
      ends (exec (.ldB 0) ((start .chip8 [(0, 1)]).withI 0x300)) (fun t => t.readByte 0x302 != 0) = true := by
  decide

theorem wit_VfWriters :
    ends (exec (.addReg 0 1) (start .chip8 [(0, 255), (1, 1)])) (fun t => t.reg 15 != 0) = true ∧
      ends (exec (.orReg 0 1) (start .chip8 [(15, 1)])) (fun t => t.reg 15 != 1) = true ∧
      ends (exec (.ldImm 15 1) (start .chip8 [])) (fun t => t.reg 15 != 0) = true := by decide

/-- The invariant holds of a state with something in it. -/
theorem wit_StepKeepsInvariant :
    let s := (((start .schip [(0, 1)]).writeBytes 0x200 [0xD0, 0x11]).withGfx [(0, 0), (63, 127)]).withHiresFlag true
    Inv s ∧ ∃ t, step s = .next t := by
  refine ⟨⟨by decide, by decide, by decide, by decide, by decide, by decide, by decide, by decide, ?_, by decide⟩,
    _, rfl⟩
  intro k _; revert k; decide

/-- A key wait that is armed at an `FX0A`. -/
theorem wit_StepKeepsKeyWait :
    let s := (((start .chip8 []).placeOpcode 0xF30A).withKeyWait .armed).withLastOutcome (some .waitingKey)
    KeyWaitInv s ∧ s.keyWait ≠ .idle ∧ ∃ t, step s = .next t :=
  ⟨fun _ => ⟨by decide, 3, rfl⟩, by decide, _, rfl⟩

theorem wit_parameters :
    (Config.ofVariant .chip8).Wf ∧ (Config.ofVariant .schip).Wf ∧ Config.table.Wf ∧
      { Config.ofVariant .xochip with fontHiBase := 0x19C }.Wf := by decide

/-- The variants that the clauses of the variant-dependent statements name. -/
theorem wit_variants :
    (start .chip8 []).cfg.variant = .chip8 ∧ (start .schip []).cfg.variant = .schip ∧
      (start .schip []).cfg.variant ≠ .chip8 ∧ (start .xochip []).cfg.variant = .xochip := by decide

/-- The gates before a target below 0x200, and a jump to its own address. -/
theorem wit_JumpGoesToTarget :
    GatesOpen (start .chip8 []) ∧ (0x1FF : Addr12).toNat < 0x200 ∧
      (0x200 : Addr12).toNat = (start .chip8 []).pc.toNat :=
  ⟨⟨.inl rfl, rfl, rfl⟩, by decide, by decide⟩

theorem wit_NoOpAndOffsetJump : (15 : RegIdx).val = (0xF00 : Addr12).toNat / 256 := by decide

theorem wit_CallPushes :
    ((start .chip8 []).withSp 15).sp.val < 16 ∧ ((start .chip8 []).withSp 16).sp.val = 16 := by decide

theorem wit_ReturnPops :
    ((start .chip8 []).withSp 1).sp.val = (0 : Fin 16).val + 1 ∧
      ((start .chip8 []).withSp 16).sp.val = (15 : Fin 16).val + 1 ∧ (start .chip8 []).sp.val = 0 := by decide

theorem wit_CallThenReturn :
    let s := (start .chip8 []).withSp 15
    s.sp.val < 16 ∧ ∃ t, exec (.call 0x300) s = .next t ∧ ((t.setReg 0 9).withPc 0x400).sp = t.sp ∧
      ∀ k : Fin 16, k.val < t.sp.val → ((t.setReg 0 9).withPc 0x400).stack[k.val] = t.stack[k.val] :=
  ⟨by decide, _, rfl, rfl, fun _ _ => rfl⟩

theorem wit_KeySkips :
    ((15 : KeyIdx).val = ((start .chip8 [(1, 0xF)]).reg 1).toNat % 16 ∧
      ((start .chip8 [(1, 0xF)]).reg 1).toNat ≤ 0xF) ∧
    ((0 : KeyIdx).val = ((start .chip8 [(1, 0x10)]).reg 1).toNat % 16 ∧
      ((start .chip8 [(1, 0x10)]).reg 1).toNat > 0xF ∧
      (start .chip8 [(1, 0x10)]).cfg.keyIndexPolicy = .fault) ∧
    (State.construct { Config.ofVariant .chip8 with keyIndexPolicy := .lowNibble }).cfg.keyIndexPolicy =
      .lowNibble := by decide

theorem wit_KeyWaitSteps :
    (start .chip8 []).keyWait = .idle ∧ ((start .chip8 []).withKeyWait .armed).keyWait = .armed ∧
      ((start .chip8 []).withKeyWait (.captured 15)).keyWait = .captured 15 := by decide

/-- A sprite that ends at CAP, one with no bytes, and one that runs past CAP; a covered cell that is set. -/
theorem wit_DrawSprite :
    (SpriteReadable ((start .chip8 []).withI 0xFFD) 3 ∧ ¬SpriteReadable ((start .chip8 []).withI 0xFFE) 3 ∧
      SpriteReadable ((start .chip8 []).withI 0xFFF) 0) ∧
    Covers (start .chip8 []) 0 1 1 0 3 ∧ ((start .chip8 []).withGfx [(0, 3)]).gfx.get 0 3 = true := by
  refine ⟨⟨.inr (by decide), fun h => ?_, .inl (by decide)⟩,
    ⟨0, 3, by decide, by decide, ?_, ?_⟩, by decide⟩
  · exact absurd h (show ¬(_ ∨ _) by decide)
  · show _ % 2 = 1; decide
  · exact (show 0 = _ ∧ 3 = _ ∧ 0 < _ ∧ 3 < _ by decide)

/-- On CHIP8 the first draw starts the display wait, and a Tick event taken by a step comes between the draws. -/
theorem wit_DrawTwiceRestores :
    let s := (start .chip8 [(0, 60), (1, 30)]).withHostEvents [.tick]
    SpriteReadable s 5 ∧ (∀ yy xx, s.gfx.get yy xx = false) ∧
      ∃ t u, exec (.drw 0 1 5) s = .next t ∧ step t = .next u ∧
        t.displayWait = true ∧ u.displayWait = false ∧ u.hostEvents = [] ∧
        u.cfg = s.cfg ∧ u.hiresFlag = s.hiresFlag ∧ u.i = s.i ∧ u.reg 0 = s.reg 0 ∧ u.reg 1 = s.reg 1 ∧
        (∀ a, s.i.toNat ≤ a → a < s.i.toNat + spriteBytes s 5 → u.readByte a = s.readByte a) ∧
        ∀ yy xx, u.gfx.get yy xx = t.gfx.get yy xx :=
  ⟨.inr (by decide), fun _ _ => rfl, _, _, rfl, rfl, by decide, by decide, by decide, rfl, rfl, rfl, by decide,
    by decide, fun _ _ _ => rfl, fun _ _ => rfl⟩

/-- A stack that differs above `sp` only. -/
theorem wit_DeadStackEntriesNotRead :
    let s := (start .chip8 []).withSp 1
    let other := s.stack.set 15 0x300
    (∀ k : Fin 16, k.val < s.sp.val → other[k.val] = s.stack[k.val]) ∧ other[15] ≠ s.stack[15] ∧
      ∃ t, step s = .next t := ⟨by decide, by decide, _, rfl⟩

/-- A high font away from the low one leaves a gap between them. -/
theorem wit_ConstructionValues :
    let c := { Config.ofVariant .xochip with fontHiBase := 0x19C }
    c.Wf ∧ c.variant ≠ .chip8 ∧ 80 ≤ 0x100 ∧ 0x100 < c.fontHiBase.toNat ∧ c.fontHiBase.toNat + 100 ≤ 0x200 := by
  decide

/-- The overflow of `FX1E` at its bound, and both policies. -/
theorem wit_AddressRegister :
    (let s := (start .chip8 [(2, 1)]).withI 0xFFF;
      s.i.toNat + (s.reg 2).toNat ≥ s.cfg.cap) ∧
    (let s := (start .chip8 [(2, 1)]).withI 0xFFE;
      s.i.toNat + (s.reg 2).toNat < s.cfg.cap ∧ s.cfg.fx1eVfNoOvf = .unchanged) ∧
    (State.construct { Config.ofVariant .chip8 with fx1eVfNoOvf := .zero }).cfg.fx1eVfNoOvf = .zero := by decide

theorem wit_GlyphAddresses :
    ((start .schip [(4, 0xF9)]).reg 4).toNat % 16 ≤ 9 ∧ ((start .schip [(4, 0x1A)]).reg 4).toNat % 16 > 9 := by
  decide

/-- The first and the last writable place of three bytes, and the places next to them. -/
theorem wit_BcdStore :
    (let s := (start .chip8 []).withI 0x200;
      0x200 ≤ s.i.toNat ∧ s.i.toNat + 3 ≤ s.cfg.cap) ∧
    (let s := (start .chip8 []).withI 0xFFD;
      0x200 ≤ s.i.toNat ∧ s.i.toNat + 3 ≤ s.cfg.cap) ∧
    ((start .chip8 []).withI 0x1FF).i.toNat < 0x200 ∧
    (let s := (start .chip8 []).withI 0xFFE;
      0x200 ≤ s.i.toNat ∧ s.cfg.cap < s.i.toNat + 3) := by decide

theorem wit_StoreRegisters :
    (let s := (start .chip8 []).withI 0xFF0;
      0x200 ≤ s.i.toNat ∧ s.i.toNat + (15 : RegIdx).val + 1 ≤ s.cfg.cap) ∧
    ((start .chip8 []).withI 0x1FF).i.toNat < 0x200 ∧
    (let s := (start .chip8 []).withI 0xFF1;
      0x200 ≤ s.i.toNat ∧ s.cfg.cap < s.i.toNat + (15 : RegIdx).val + 1) := by decide

theorem wit_LoadRegisters :
    (let s := (start .xochip []).withI 0xFFF0;
      s.i.toNat + (15 : RegIdx).val + 1 ≤ s.cfg.cap) ∧
    (let s := (start .xochip []).withI 0xFFF1;
      s.cfg.cap < s.i.toNat + (15 : RegIdx).val + 1) := by decide

theorem wit_StoreThenLoadRestores :
    let s := (start .chip8 [(0, 10), (1, 11), (2, 12)]).withI 0x300
    0x200 ≤ s.i.toNat ∧ s.i.toNat + (2 : RegIdx).val + 1 ≤ s.cfg.cap ∧
      ∃ t, exec (.storeRegs 2) s = .next t ∧ (t.withI 0x300).cfg = s.cfg ∧ (t.withI 0x300).i = s.i ∧
        ∀ a, s.i.toNat ≤ a → a ≤ s.i.toNat + (2 : RegIdx).val → (t.withI 0x300).readByte a = t.readByte a :=
  ⟨by decide, by decide, _, rfl, rfl, rfl, fun _ _ _ => rfl⟩

/-- The last register in range and the first out of range on SCHIP. -/
theorem wit_UserRegisterTransfers : (7 : RegIdx).val < 8 ∧ ¬(8 : RegIdx).val < 8 := by decide

end Sys2Proof.Tests
end

section
/-! PROOFS. Arithmetic and logic (spec/41_alu.md): what a written register leaves through `Delta(2)`, and `7XNN`. -/

namespace Sys2Proof.Machine

/-- Only the written register changes, and `Delta(d)` changes none (R114, R131). -/
theorem keepsRegsBut_setReg_advance (s : State) (x : RegIdx) (b : Byte) (d : Word) :
    KeepsRegsBut s ((s.setReg x b).advance d) [x] := by
  intro r hr
  have hne : r ≠ x := by simpa using hr
  rw [State.advance_reg, State.reg_setReg, if_neg hne]

/-- An instruction that writes one register and then does `Delta(2)`. -/
theorem completes_of_setReg {i : Instr} {s : State} {x : RegIdx} {b : Byte}
    (he : exec i s = .next ((s.setReg x b).advance 2)) {value : Byte → Prop} (hb : value b) :
    Completes i s [.regs] (fun t => value (t.reg x) ∧ KeepsRegsBut s t [x] ∧ Stepped s t 2) := by
  refine completes_of_advance he (s.setReg_frame x b) ⟨?_, ?_, ?_⟩
  · rwa [State.advance_reg, State.reg_setReg, if_pos rfl]
  · exact keepsRegsBut_setReg_advance s x b 2
  · exact stepped_of_advance 2 rfl

theorem exec_addImm (x : RegIdx) (nn : Byte) (s : State) :
    exec (.addImm x nn) s = .next ((s.setReg x (s.reg x + nn)).advance 2) := rfl

theorem hasWord_addImm (x : RegIdx) (nn : Byte) :
    HasWord (.addImm x nn) (0x7000 + 0x100 * x.val + nn.toNat) := by
  have hword : (encodeWord (.addImm x nn)).toNat = 0x7 * 0x1000 + x.val * 0x100 + nn.toNat :=
    packXNN_toNat 0x7 x nn
  unfold HasWord
  omega

/-- Settles O29: `7XNN` writes one register, the sum of two bytes, which `BitVec` addition wraps (R134). -/
theorem addImmediateWraps : Obligations.AddImmediateWraps := by
  intro s x nn
  refine ⟨hasWord_addImm x nn, ?_⟩
  exact completes_of_setReg (exec_addImm x nn s)
    (value := fun b => b.toNat = ((s.reg x).toNat + nn.toNat) % 256) (BitVec.toNat_add _ _)

end Sys2Proof.Machine
end

section
/-! PROOFS. Control flow (spec/42_control_flow.md): the skips on an immediate, and the key wait `FX0A`. -/

namespace Sys2Proof.Machine

/-- The word of an instruction of the form `F X NN`, as the number `w` (R91). -/
theorem hasWord_of_packXNN {i : Instr} {w : Nat} (f : Nibble) (x : RegIdx) (nn : Byte)
    (he : encodeWord i = packXNN f x nn) (hw : f.toNat * 0x1000 + x.val * 0x100 + nn.toNat = w) :
    HasWord i w := by
  unfold HasWord
  rw [he, packXNN_toNat, hw]

theorem hasWord_seImm (x : RegIdx) (nn : Byte) :
    HasWord (.seImm x nn) (0x3000 + 0x100 * x.val + nn.toNat) :=
  hasWord_of_packXNN 0x3 x nn rfl (by bv_omega)

theorem hasWord_sneImm (x : RegIdx) (nn : Byte) :
    HasWord (.sneImm x nn) (0x4000 + 0x100 * x.val + nn.toNat) :=
  hasWord_of_packXNN 0x4 x nn rfl (by bv_omega)

theorem hasWord_ldVxK (x : RegIdx) : HasWord (.ldVxK x) (0xF00A + 0x100 * x.val) :=
  hasWord_of_packXNN 0xF x 0x0A rfl (by bv_omega)

/-! ### Skips -/

/-- An instruction whose meaning is a skip completes, changes nothing but `pc` and the outcome, and moves `pc` by 4
or by 2 (R167). -/
theorem completes_of_skipIf {i : Instr} {s : State} {c : Bool} {d : Nat}
    (he : exec i s = .next (s.skipIf c)) (hd : d = if c then 4 else 2) :
    Completes i s [] (fun t => Stepped s t d) := by
  have hdelta : d = (if c then 4 else 2 : Word).toNat := by cases c <;> exact hd
  rw [hdelta]
  exact completes_of_advance he (Frame.refl _ s) (stepped_of_advance _ rfl)

theorem exec_seImm (x : RegIdx) (nn : Byte) (s : State) :
    exec (.seImm x nn) s = .next (s.skipIf (s.reg x == nn)) := rfl

theorem exec_sneImm (x : RegIdx) (nn : Byte) (s : State) :
    exec (.sneImm x nn) s = .next (s.skipIf (s.reg x != nn)) := rfl

/-- Settles O40: both skips do one of the two `Delta`s, on complementary conditions (R170, R171). -/
theorem immediateSkips : Obligations.ImmediateSkips := by
  intro s x nn
  refine ⟨hasWord_seImm x nn, completes_of_skipIf (exec_seImm x nn s) ?_,
    hasWord_sneImm x nn, completes_of_skipIf (exec_sneImm x nn s) ?_⟩
  · simp only [beq_iff_eq]
  · simp only [bne_iff_ne, ne_eq, ite_not]

/-! ### The key wait -/

/-- `FX0A` with no captured key: an `Armed` wait is armed again, so both cases have one meaning (R180). -/
theorem exec_ldVxK_of_waiting {s : State} (x : RegIdx) (h : s.keyWait = .idle ∨ s.keyWait = .armed) :
    exec (.ldVxK x) s = .next (s.withKeyWait .armed).stay := by
  show execLdVxK x s = _
  unfold execLdVxK
  rcases h with h | h
  · rw [h]
  · have hsame : s.withKeyWait .armed = s := by rw [← h]; rfl
    rw [h, hsame]

/-- `FX0A` with a captured key (R180). -/
theorem exec_ldVxK_of_captured {s : State} {k : KeyIdx} (x : RegIdx) (h : s.keyWait = .captured k) :
    exec (.ldVxK x) s =
      .next (((s.setReg x (BitVec.ofNat 8 k.val)).withKeyWait .idle).advance 2) := by
  show execLdVxK x s = _
  unfold execLdVxK
  rw [h]

/-- A key's index fits in a byte (R45). -/
theorem keyIdx_toByte_toNat (k : KeyIdx) : (BitVec.ofNat 8 k.val).toNat = k.val := by
  rw [BitVec.toNat_ofNat]
  omega

/-- Without a captured key `FX0A` leaves the wait armed, at the same `pc` (R180). -/
theorem ldVxK_waits {s : State} (x : RegIdx) (h : s.keyWait = .idle ∨ s.keyWait = .armed) :
    Completes (.ldVxK x) s [.keyWait] (fun t =>
      t.keyWait = .armed ∧ t.pc = s.pc ∧ t.lastOutcome = some .waitingKey) := by
  refine ⟨_, exec_ldVxK_of_waiting x h, ?_, rfl, rfl, rfl⟩
  exact (s.withKeyWait_frame .armed).trans (State.stay_frame _)

/-- With a captured key `FX0A` writes it to `V[X]`, ends the wait and moves on (R180). -/
theorem ldVxK_takes_captured {s : State} {k : KeyIdx} (x : RegIdx) (h : s.keyWait = .captured k) :
    Completes (.ldVxK x) s [.keyWait, .regs] (fun t =>
      (t.reg x).toNat = k.val ∧ KeepsRegsBut s t [x] ∧ t.keyWait = .idle ∧ Stepped s t 2) := by
  have hframe : Frame [.keyWait, .regs] s
      ((s.setReg x (BitVec.ofNat 8 k.val)).withKeyWait .idle) :=
    (s.setReg_frame x _).trans (State.withKeyWait_frame _ .idle)
  refine completes_of_advance (exec_ldVxK_of_captured x h) hframe ⟨?_, ?_, rfl, ?_⟩
  · rw [State.advance_reg, State.withKeyWait_reg, State.reg_setReg, if_pos rfl]
    exact keyIdx_toByte_toNat k
  · -- `withKeyWait` keeps the registers (`State.withKeyWait_reg`)
    exact keepsRegsBut_setReg_advance s x _ 2
  · exact stepped_of_advance 2 rfl

/-- Settles O43: `FX0A` arms or keeps the wait, or takes the captured key (R180). -/
theorem keyWaitSteps : Obligations.KeyWaitSteps :=
  fun _ x => ⟨hasWord_ldVxK x, ldVxK_waits x, fun _ => ldVxK_takes_captured x⟩

end Sys2Proof.Machine
end

section
/-! PROOFS. The display (spec/43_display.md): the framebuffer and `draw_flag` through `present` and
`Delta(d)`, and `00E0`. -/

namespace Sys2Proof.Machine

@[simp] theorem State.advance_gfx (s : State) (d : Word) : (s.advance d).gfx = s.gfx := rfl

@[simp] theorem State.advance_drawFlag (s : State) (d : Word) : (s.advance d).drawFlag = s.drawFlag := rfl

@[simp] theorem State.present_gfx (s : State) (g : Gfx) : (s.present g).gfx = g := rfl

@[simp] theorem State.present_drawFlag (s : State) (g : Gfx) : (s.present g).drawFlag = true := rfl

@[simp] theorem State.present_pc (s : State) (g : Gfx) : (s.present g).pc = s.pc := rfl

theorem exec_cls (s : State) : exec .cls s = .next ((s.present Gfx.clear).advance 2) := rfl

theorem hasWord_cls : HasWord .cls 0x00E0 := rfl

/-- Settles O44: `00E0` presents the clear framebuffer and does `Delta(2)` (R190). -/
theorem clearScreen : Obligations.ClearScreen := by
  intro s
  refine ⟨hasWord_cls, completes_of_advance (exec_cls s) (s.present_frame Gfx.clear) ⟨?_, ?_, ?_⟩⟩
  · intro yy xx
    rw [State.advance_gfx, State.present_gfx, Gfx.get_clear]
  · rw [State.advance_drawFlag, State.present_drawFlag]
  · exact stepped_of_advance 2 (s.present_pc Gfx.clear)

end Sys2Proof.Machine
end

section
/-! PROOFS. Events and outputs (spec/60_exceptions.md): the tone output. -/

namespace Sys2Proof.Machine

@[simp] theorem State.outputs_tone (s : State) : s.outputs.tone = s.tone := rfl

/-- The model compares `ST` with 0 as a number, the rule's "`ST > 0`" (R282). -/
theorem State.tone_eq_true_iff (s : State) : s.tone = true ↔ 0 < s.st.toNat := decide_eq_true_iff

/-- Settles O17: the tone is on exactly while `ST` is above 0, and an unsigned byte is above 0 exactly when
it is not 0 (R282). -/
theorem toneFollowsSoundTimer : Obligations.ToneFollowsSoundTimer := by
  intro s
  calc s.outputs.tone = true
      ↔ s.tone = true := by rw [State.outputs_tone]
    _ ↔ 0 < s.st.toNat := s.tone_eq_true_iff
    _ ↔ s.st ≠ 0 := s.st.pos_iff_ne_zero

end Sys2Proof.Machine
end

section
/-! PROOFS. Encoding (spec/30_encoding.md): the decoder and the encoder are inverse to each other, the decoder follows
the opcode table, and the words it rejects. -/

-- One theorem after another: each that is elaborated beside the others takes a thread, and the check's memory bound
-- holds few.
set_option Elab.async false

namespace Sys2Proof

/-! ### From an instruction to its word and back -/

theorem packNNN_zero (nnn : Addr12) : packNNN 0 nnn = nnn.setWidth 16 := by
  apply BitVec.eq_of_toNat_eq
  rw [packNNN_toNat, BitVec.toNat_setWidth, Nat.mod_eq_of_lt (by omega)]
  exact Nat.zero_add _

/-- A family-0 word is the word `a` of another row exactly when its address is. -/
theorem packNNN_zero_eq_iff (nnn a : Addr12) : packNNN 0 nnn = a.setWidth 16 ↔ nnn = a := by
  rw [packNNN_zero, ← BitVec.toNat_inj, ← BitVec.toNat_inj]
  simp only [BitVec.toNat_setWidth]
  omega

theorem packNNN_zero_and_eq_iff (nnn a : Addr12) :
    packNNN 0 nnn &&& 0xFFF0 = a.setWidth 16 ↔ nnn &&& 0xFF0 = a := by
  have hand : packNNN 0 nnn &&& 0xFFF0 = packNNN 0 (nnn &&& 0xFF0) := by
    rw [packNNN_zero, packNNN_zero, BitVec.setWidth_and]
    apply BitVec.eq_of_getLsbD_eq
    intro k hk
    simp only [BitVec.getLsbD_and, BitVec.getLsbD_setWidth]
    rcases Nat.lt_or_ge k 12 with h | h
    · congr 1
      revert k; decide
    · rw [BitVec.getLsbD_of_ge nnn k h]; simp
  rw [hand, packNNN_zero_eq_iff]

/-- The no-op's addresses are those whose words no other row of family 0 takes (R95, R96). -/
theorem isSysAddr_iff (v : Variant) (nnn : Addr12) :
    isSysAddr v nnn = true ↔ packNNN 0 nnn ≠ 0x00E0 ∧ packNNN 0 nnn ≠ 0x00EE ∧
      (v.isExtended = true → packNNN 0 nnn &&& 0xFFF0 ≠ 0x00C0 ∧ packNNN 0 nnn &&& 0xFFF0 ≠ 0x00D0 ∧
        packNNN 0 nnn ≠ 0x00FB ∧ packNNN 0 nnn ≠ 0x00FC ∧ packNNN 0 nnn ≠ 0x00FE ∧ packNNN 0 nnn ≠ 0x00FF) := by
  have hcls : packNNN 0 nnn = 0x00E0 ↔ nnn = 0x0E0 := packNNN_zero_eq_iff nnn 0x0E0
  have hret : packNNN 0 nnn = 0x00EE ↔ nnn = 0x0EE := packNNN_zero_eq_iff nnn 0x0EE
  have hscd : packNNN 0 nnn &&& 0xFFF0 = 0x00C0 ↔ _ := packNNN_zero_and_eq_iff nnn 0x0C0
  have hscu : packNNN 0 nnn &&& 0xFFF0 = 0x00D0 ↔ _ := packNNN_zero_and_eq_iff nnn 0x0D0
  have hscr : packNNN 0 nnn = 0x00FB ↔ nnn = 0x0FB := packNNN_zero_eq_iff nnn 0x0FB
  have hscl : packNNN 0 nnn = 0x00FC ↔ nnn = 0x0FC := packNNN_zero_eq_iff nnn 0x0FC
  have hlow : packNNN 0 nnn = 0x00FE ↔ nnn = 0x0FE := packNNN_zero_eq_iff nnn 0x0FE
  have hhigh : packNNN 0 nnn = 0x00FF ↔ nnn = 0x0FF := packNNN_zero_eq_iff nnn 0x0FF
  rw [hcls.ne, hret.ne, hscd.ne, hscu.ne, hscr.ne, hscl.ne, hlow.ne, hhigh.ne]
  unfold isSysAddr isFamily0All isFamily0Extended
  cases v.isExtended <;> simp [and_assoc]

theorem decodeFamily0_sys {v : Variant} {nnn : Addr12} (h : isSysAddr v nnn = true) :
    decodeFamily0 v (packNNN 0 nnn) = .sys nnn := by
  obtain ⟨hcls, hret, hext⟩ := (isSysAddr_iff v nnn).mp h
  unfold decodeFamily0
  rw [if_neg hcls, if_neg hret, fieldNNN_packNNN]
  split
  · next hv =>
    obtain ⟨hscd, hscu, hscr, hscl, hlow, hhigh⟩ := hext hv
    unfold decodeFamily0Extended
    rw [if_neg hscd, if_neg hscu, if_neg hscr, if_neg hscl, if_neg hlow, if_neg hhigh, fieldNNN_packNNN]
  · rfl

theorem decodeFamily0_scd {v : Variant} (hv : v.isExtended = true) (n : Count) :
    decodeFamily0 v (packXYN 0 0 0xC (finToNibble n)) = .scd n := by
  revert n; cases v <;> [cases hv; decide; decide]

theorem decodeFamily0_scu {v : Variant} (hv : v.isExtended = true) (n : Count) :
    decodeFamily0 v (packXYN 0 0 0xD (finToNibble n)) = .scu n := by
  revert n; cases v <;> [cases hv; decide; decide]

/-- Every instruction a variant has is the one its word decodes to (R94, R95). -/
theorem decodeWord_encodeWord {v : Variant} {i : Instr} (h : i.wf v = true) :
    decodeWord v (encodeWord i) = .ok i := by
  obtain ⟨hext, hsys⟩ : (v.isExtended || !i.isExtended) = true ∧ i.sysAddrOk v = true := by
    simpa only [Instr.wf, Bool.and_eq_true] using h
  cases i with
  | cls | ret => rfl
  | sys nnn =>
    simp only [encodeWord, decodeWord, fieldF_packNNN]
    exact congrArg Except.ok (decodeFamily0_sys hsys)
  | scd n =>
    have hv : v.isExtended = true := by simpa [Instr.isExtended] using hext
    simp only [encodeWord, decodeWord, fieldF_packXYN]
    exact congrArg Except.ok (decodeFamily0_scd hv n)
  | scu n =>
    have hv : v.isExtended = true := by simpa [Instr.isExtended] using hext
    simp only [encodeWord, decodeWord, fieldF_packXYN]
    exact congrArg Except.ok (decodeFamily0_scu hv n)
  | scr | scl | low | high => cases v <;> [cases hext; rfl; rfl]
  | jp | call | ldI | jpOffset => simp [encodeWord, decodeWord]
  | seImm | sneImm | ldImm | addImm | rnd => simp [encodeWord, decodeWord, fieldX]
  | seReg | sneReg => simp [encodeWord, decodeWord, fieldX, fieldY]
  | drw => simp [encodeWord, decodeWord, fieldX, fieldY, fieldN]
  | ldReg | orReg | andReg | xorReg | addReg | sub | shr | subn | shl =>
    simp [encodeWord, decodeWord, decodeFamily8, fieldX, fieldY]
  | skp | sknp => simp [encodeWord, decodeWord, decodeFamilyE, fieldX]
  | ldHf =>
    have hv : v.isExtended = true := by simpa [Instr.isExtended] using hext
    simp [encodeWord, decodeWord, decodeFamilyF, fieldX, hv]
  | ldVxDt | ldVxK | ldDtVx | ldStVx | addI | ldF | ldB | storeRegs | loadRegs | storeUser | loadUser =>
    simp [encodeWord, decodeWord, decodeFamilyF, fieldX]

/-- Settles O1: the encoded bytes are those of the instruction's word. -/
theorem decodeOfEncode : Obligations.DecodeOfEncode := by
  intro v i rest h
  rw [encode, decode_bytesOfOpcode, decodeWord_encodeWord h]

/-- Settles O5: each word is the word of its instruction. -/
theorem sampleWordsDecode : Obligations.SampleWordsDecode :=
  ⟨decodeWord_encodeWord (i := .cls) rfl, decodeWord_encodeWord (i := .sys 0x0FF) rfl,
    decodeWord_encodeWord (i := .high) rfl, decodeWord_encodeWord (i := .scd 5) rfl,
    decodeWord_encodeWord (i := .jp 0x321) rfl, decodeWord_encodeWord (i := .call 0xABC) rfl,
    decodeWord_encodeWord (i := .seImm 0xA 0x42) rfl, decodeWord_encodeWord (i := .sneImm 0xB 0x17) rfl,
    decodeWord_encodeWord (i := .seReg 1 2) rfl, decodeWord_encodeWord (i := .ldImm 0xC 0x99) rfl,
    decodeWord_encodeWord (i := .addImm 0xD 0x02) rfl, decodeWord_encodeWord (i := .addReg 0xA 0xB) rfl,
    decodeWord_encodeWord (i := .sneReg 3 4) rfl, decodeWord_encodeWord (i := .ldI 0x5F0) rfl,
    decodeWord_encodeWord (i := .jpOffset 0x3F0) rfl, decodeWord_encodeWord (i := .rnd 7 0x0F) rfl,
    decodeWord_encodeWord (i := .drw 1 2 5) rfl, decodeWord_encodeWord (i := .skp 6) rfl,
    decodeWord_encodeWord (i := .storeRegs 3) rfl, decodeWord_encodeWord (i := .ldDtVx 5) rfl⟩

/-! ### The opcode table -/

/-- A row covers a word when each field has the row's bits (R94). -/
theorem covers_iff (v : Variant) (op m p : Word) (e : Bool) :
    OpRow.covers ⟨m, p, e⟩ v op = true ↔ (v.isExtended = true ∨ e = false) ∧
      fieldF op &&& fieldF m = fieldF p ∧ bitsX op &&& bitsX m = bitsX p ∧
        bitsY op &&& bitsY m = bitsY p ∧ bitsN op &&& bitsN m = bitsN p := by
  rw [← mask_eq_iff, ← word4_fields, ← word4_fields]
  simp [OpRow.covers]

theorem find?_cons_ite {α : Type} (p : α → Bool) (a : α) (l : List α) :
    (a :: l).find? p = if p a = true then some a else l.find? p := by
  cases h : p a <;> simp [h]

/-- The row of what the decoder answers: none for an illegal word. -/
def rowOf : Except Illegal Instr → Option OpRow
  | .ok i => some i.row
  | .error _ => none

theorem rowOf_ok (i : Instr) : rowOf (.ok i) = some i.row := rfl

theorem rowOf_error (e : Illegal) : rowOf (.error e) = none := rfl

theorem rowOf_ite (c : Prop) [Decidable c] (a b : Except Illegal Instr) :
    rowOf (if c then a else b) = if c then rowOf a else rowOf b := apply_ite ..

theorem rowOf_ok_ite (c : Prop) [Decidable c] (i j : Instr) :
    rowOf (.ok (if c then i else j)) = if c then rowOf (.ok i) else rowOf (.ok j) := by split <;> rfl

/-- The first row of the table that covers a word (R93). -/
def firstRow (v : Variant) (op : Word) : Option OpRow := opcodeTable.find? fun r => r.covers v op

section
variable {v : Variant} {op : Word}

/-- In family 0 the row of `0NNN` covers every word, so the rows before it decide (R95). -/
theorem firstRow_family0 (h : fieldF op = 0) : firstRow v op = rowOf (.ok (decodeFamily0 v op)) := by
  have hall : op &&& 0xFFFF = op := BitVec.and_allOnes
  have hsys : op &&& 0xF000 = 0x0000 := (mask_eq_iff 15 0 0 0 op 0 0 0 0).mpr (by simp [h])
  simp only [firstRow, opcodeTable, List.map, List.cons_append, List.nil_append, find?_cons_ite,
    Instr.row, OpRow.covers, hall, hsys, decodeFamily0, decodeFamily0Extended, rowOf_ok_ite]
  cases v.isExtended <;> simp [rowOf_ok, Instr.row]

theorem firstRow_family8 (h : fieldF op = 8) : firstRow v op = rowOf (decodeFamily8 op) := by
  simp only [firstRow, opcodeTable, List.map, List.cons_append, List.nil_append, find?_cons_ite,
    Instr.row, covers_iff, h, decodeFamily8, rowOf_ite, rowOf_ok, rowOf_error]
  generalize bitsX op = x, bitsY op = y, bitsN op = n
  simp [fieldF, bitsX, bitsY, bitsN]

theorem firstRow_familyE (h : fieldF op = 14) : firstRow v op = rowOf (decodeFamilyE op) := by
  simp only [firstRow, opcodeTable, List.map, List.cons_append, List.nil_append, find?_cons_ite,
    Instr.row, covers_iff, h, decodeFamilyE, fieldNN_eq_iff, rowOf_ite, rowOf_ok, rowOf_error]
  generalize bitsX op = x, bitsY op = y, bitsN op = n
  simp [fieldF, bitsX, bitsY, bitsN]

/-- In family F only the row of `FX30` asks for a variant. -/
theorem firstRow_familyF (h : fieldF op = 15) : firstRow v op = rowOf (decodeFamilyF v op) := by
  simp only [firstRow, opcodeTable, List.map, List.cons_append, List.nil_append, find?_cons_ite,
    Instr.row, covers_iff, h, decodeFamilyF, fieldNN_eq_iff, rowOf_ite, rowOf_ok, rowOf_error]
  generalize bitsX op = x, bitsY op = y, bitsN op = n
  cases v.isExtended with
  | true => simp [fieldF, bitsX, bitsY, bitsN]
  | false =>
    by_cases h30 : y = 3 ∧ n = 0
    · obtain ⟨rfl, rfl⟩ := h30
      simp [fieldF, bitsX, bitsY, bitsN]
    · have hne : ¬(y = BitVec.extractLsb' 4 4 (0x30 : Byte) ∧ n = BitVec.extractLsb' 0 4 (0x30 : Byte)) := h30
      rw [if_neg hne]
      simp [fieldF, bitsX, bitsY, bitsN]

theorem fieldF_eq_ofNat {k : Nat} (h : (fieldF op).toNat = k) : fieldF op = BitVec.ofNat 4 k := by
  subst h; simp

/-- What the decoder answers in each family (R93). -/
theorem decodeWord_families {P : Except Illegal Instr → Prop}
    (zero : fieldF op = 0 → P (.ok (decodeFamily0 v op)))
    (one : fieldF op = 1 → P (.ok (.jp (fieldNNN op))))
    (two : fieldF op = 2 → P (.ok (.call (fieldNNN op))))
    (three : fieldF op = 3 → P (.ok (.seImm (fieldX op) (fieldNN op))))
    (four : fieldF op = 4 → P (.ok (.sneImm (fieldX op) (fieldNN op))))
    (five : fieldF op = 5 → P (if bitsN op = 0 then .ok (.seReg (fieldX op) (fieldY op)) else .error .fiveXYN))
    (six : fieldF op = 6 → P (.ok (.ldImm (fieldX op) (fieldNN op))))
    (seven : fieldF op = 7 → P (.ok (.addImm (fieldX op) (fieldNN op))))
    (eight : fieldF op = 8 → P (decodeFamily8 op))
    (nine : fieldF op = 9 → P (if bitsN op = 0 then .ok (.sneReg (fieldX op) (fieldY op)) else .error .nineXYN))
    (ten : fieldF op = 10 → P (.ok (.ldI (fieldNNN op))))
    (eleven : fieldF op = 11 → P (.ok (.jpOffset (fieldNNN op))))
    (twelve : fieldF op = 12 → P (.ok (.rnd (fieldX op) (fieldNN op))))
    (thirteen : fieldF op = 13 → P (.ok (.drw (fieldX op) (fieldY op) (fieldN op))))
    (fourteen : fieldF op = 14 → P (decodeFamilyE op))
    (fifteen : fieldF op = 15 → P (decodeFamilyF v op)) :
    P (decodeWord v op) := by
  unfold decodeWord
  split
  · exact zero (fieldF_eq_ofNat ‹_›)
  · exact one (fieldF_eq_ofNat ‹_›)
  · exact two (fieldF_eq_ofNat ‹_›)
  · exact three (fieldF_eq_ofNat ‹_›)
  · exact four (fieldF_eq_ofNat ‹_›)
  · exact five (fieldF_eq_ofNat ‹_›)
  · exact six (fieldF_eq_ofNat ‹_›)
  · exact seven (fieldF_eq_ofNat ‹_›)
  · exact eight (fieldF_eq_ofNat ‹_›)
  · exact nine (fieldF_eq_ofNat ‹_›)
  · exact ten (fieldF_eq_ofNat ‹_›)
  · exact eleven (fieldF_eq_ofNat ‹_›)
  · exact twelve (fieldF_eq_ofNat ‹_›)
  · exact thirteen (fieldF_eq_ofNat ‹_›)
  · exact fourteen (fieldF_eq_ofNat ‹_›)
  · have hF : (fieldF op).toNat = 15 := by simp only [imp_false] at *; omega
    exact fifteen (fieldF_eq_ofNat hF)

/-- The decoder picks the first row that covers the word; the families not above have one row each. -/
theorem firstRow_eq_rowOf (v : Variant) (op : Word) : firstRow v op = rowOf (decodeWord v op) := by
  refine decodeWord_families (P := fun r => firstRow v op = rowOf r) firstRow_family0 ?_ ?_ ?_ ?_ ?_ ?_ ?_
    firstRow_family8 ?_ ?_ ?_ ?_ ?_ firstRow_familyE firstRow_familyF
  all_goals
    intro hF
    simp only [firstRow, opcodeTable, List.map, List.cons_append, List.nil_append, find?_cons_ite,
      Instr.row, covers_iff, hF, rowOf_ite, rowOf_ok, rowOf_error]
    generalize bitsX op = x, bitsY op = y, bitsN op = n
    simp [fieldF, bitsX, bitsY, bitsN]

/-- Settles O3: family by family, the table's tests are the decoder's. -/
theorem decodeFollowsTable : Obligations.DecodeFollowsTable := by
  intro v op
  have h := firstRow_eq_rowOf v op
  cases hd : decodeWord v op <;> rw [hd] at h <;> exact h

/-! ### Illegal words (R99) -/

/-- The rows of the table of R99. -/
def IllegalWord (v : Variant) (w : Nat) : Illegal → Prop
  | .fiveXYN => w / 4096 = 5 ∧ w % 16 ≠ 0
  | .nineXYN => w / 4096 = 9 ∧ w % 16 ≠ 0
  | .eightXYN => w / 4096 = 8 ∧ w % 16 ∈ [0x8, 0x9, 0xA, 0xB, 0xC, 0xD, 0xF]
  | .eXNN => w / 4096 = 0xE ∧ w % 256 ∉ [0x9E, 0xA1]
  | .fXNN => w / 4096 = 0xF ∧ w % 256 ≠ 0x30 ∧
      w % 256 ∉ [0x07, 0x0A, 0x15, 0x18, 0x1E, 0x29, 0x33, 0x55, 0x65, 0x75, 0x85]
  | .fx30OnChip8 => w / 4096 = 0xF ∧ w % 256 = 0x30 ∧ v = .chip8

/-- A test that decodes to an instruction leaves the errors to the tests after it. -/
theorem ite_ok_eq_error_iff (c : Prop) [Decidable c] (i : Instr) (r : Except Illegal Instr) (why : Illegal) :
    (if c then .ok i else r) = .error why ↔ ¬c ∧ r = .error why := by
  split <;> simp [*]

theorem error_eq_error_iff (a why : Illegal) : (.error a : Except Illegal Instr) = .error why ↔ why = a := by
  rw [Except.error.injEq, eq_comm]

theorem decodeFamily8_error_iff (why : Illegal) :
    decodeFamily8 op = .error why ↔
      why = .eightXYN ∧ op.toNat % 16 ∈ [0x8, 0x9, 0xA, 0xB, 0xC, 0xD, 0xF] := by
  have hlt := (bitsN op).isLt
  simp only [decodeFamily8, ← BitVec.toNat_inj, ← bitsN_toNat, ite_ok_eq_error_iff, error_eq_error_iff]
  generalize (bitsN op).toNat = n at *
  interval_cases n <;> simp

theorem decodeFamilyE_error_iff (why : Illegal) :
    decodeFamilyE op = .error why ↔ why = .eXNN ∧ op.toNat % 256 ∉ [0x9E, 0xA1] := by
  simp only [decodeFamilyE, ← BitVec.toNat_inj, fieldNN_toNat, ite_ok_eq_error_iff, error_eq_error_iff]
  simp
  tauto

theorem decodeFamilyF_error_iff (why : Illegal) :
    decodeFamilyF v op = .error why ↔
      (why = .fXNN ∧ op.toNat % 256 ≠ 0x30 ∧
        op.toNat % 256 ∉ [0x07, 0x0A, 0x15, 0x18, 0x1E, 0x29, 0x33, 0x55, 0x65, 0x75, 0x85]) ∨
      (why = .fx30OnChip8 ∧ op.toNat % 256 = 0x30 ∧ v = .chip8) := by
  simp only [decodeFamilyF, ← BitVec.toNat_inj, fieldNN_toNat, Machine.isExtended_iff]
  generalize op.toNat % 0x100 = n
  by_cases h30 : n = 0x30
  · by_cases hv : v = .chip8 <;> simp [h30, hv, @eq_comm Illegal]
  · simp [h30, ite_ok_eq_error_iff]
    tauto

theorem decodeWord_error_iff (why : Illegal) :
    decodeWord v op = .error why ↔ IllegalWord v op.toNat why := by
  have hfam (k : Nibble) (h : fieldF op = k) : op.toNat / 4096 = k.toNat := h ▸ (fieldF_toNat op).symm
  apply decodeWord_families (P := fun r => r = .error why ↔ IllegalWord v op.toNat why)
  all_goals
    intro hF
    cases why <;> simp [IllegalWord, hfam _ hF, decodeFamily8_error_iff, decodeFamilyE_error_iff,
      decodeFamilyF_error_iff, ite_ok_eq_error_iff, ← BitVec.toNat_inj, bitsN_toNat]

/-- Settles O4: each class is one row of `decodeWord_error_iff`. -/
theorem illegalWordsExact : Obligations.IllegalWordsExact := fun _ _ =>
  ⟨decodeWord_error_iff .fiveXYN, decodeWord_error_iff .nineXYN, decodeWord_error_iff .eightXYN,
    decodeWord_error_iff .eXNN, decodeWord_error_iff .fXNN, decodeWord_error_iff .fx30OnChip8⟩

/-! ### From a word to its instruction and back -/

theorem packNNN_fields {f : Nibble} (hF : fieldF op = f) : packNNN f (fieldNNN op) = op := by
  apply BitVec.eq_of_toNat_eq
  rw [packNNN_toNat, ← hF, fieldF_toNat, fieldNNN_toNat]; omega

theorem fieldX_val (op : Word) : (fieldX op).val = op.toNat / 0x100 % 16 := bitsX_toNat op

theorem fieldY_val (op : Word) : (fieldY op).val = op.toNat / 0x10 % 16 := bitsY_toNat op

theorem packXNN_fields {f : Nibble} {nn : Byte} (hF : fieldF op = f) (hN : fieldNN op = nn) :
    packXNN f (fieldX op) nn = op := by
  apply BitVec.eq_of_toNat_eq
  rw [packXNN_toNat, ← hF, ← hN, fieldF_toNat, fieldNN_toNat, fieldX_val]; omega

theorem packXYN_fields {f n : Nibble} (hF : fieldF op = f) (hN : bitsN op = n) :
    packXYN f (fieldX op) (fieldY op) n = op := by
  apply BitVec.eq_of_toNat_eq
  rw [packXYN_toNat, ← hF, ← hN, fieldF_toNat, bitsN_toNat, fieldX_val, fieldY_val]; omega

/-- An instruction a variant has, with its word. -/
def IsWordOf (v : Variant) (op : Word) (i : Instr) : Prop := i.wf v = true ∧ encodeWord i = op

/-- What a decoder may answer for a word: the instruction whose word it is, or an error. -/
def Sound (v : Variant) (op : Word) : Except Illegal Instr → Prop
  | .ok i => IsWordOf v op i
  | .error _ => True

theorem isWordOf_plain {i : Instr} (hw : encodeWord i = op) (he : i.isExtended = false := by rfl)
    (hs : i.sysAddrOk v = true := by rfl) : IsWordOf v op i := ⟨by rw [Instr.wf, he, hs]; simp, hw⟩

theorem isWordOf_extended {i : Instr} (hw : encodeWord i = op) (hv : v.isExtended = true)
    (hs : i.sysAddrOk v = true := by rfl) : IsWordOf v op i := ⟨by rw [Instr.wf, hv, hs]; rfl, hw⟩

theorem isWordOf_ite {c : Prop} [Decidable c] {i j : Instr} (hi : c → IsWordOf v op i)
    (hj : ¬c → IsWordOf v op j) : IsWordOf v op (if c then i else j) := by
  split
  · exact hi ‹_›
  · exact hj ‹_›

/-- One test of a decoder. -/
theorem sound_ite {c : Prop} [Decidable c] {i : Instr} {r : Except Illegal Instr}
    (hi : c → IsWordOf v op i) (hr : Sound v op r) : Sound v op (if c then .ok i else r) := by
  split
  · exact hi ‹_›
  · exact hr

theorem packXYN_of_scroll {y : Fin 16} (hF : fieldF op = 0) (h : op &&& 0xFFF0 = packXYN 0 0 y 0) :
    packXYN 0 0 y (finToNibble (fieldN op)) = op := by
  rw [packXYN_eq_word4] at h
  obtain ⟨-, hX, hY, -⟩ := (mask_eq_iff 15 15 15 0 op _ _ _ _).mp h
  replace hX := (nibble_and_15 _).symm.trans hX
  replace hY := (nibble_and_15 _).symm.trans hY
  rw [packXYN_eq_word4, ← hX, ← hY, ← hF, fieldN, finToNibble_nibbleToFin, ← word4_fields]

theorem isWordOf_decodeFamily0 (hF : fieldF op = 0) : IsWordOf v op (decodeFamily0 v op) := by
  have hop : packNNN 0 (fieldNNN op) = op := packNNN_fields hF
  have hsys := isSysAddr_iff v (fieldNNN op)
  rw [hop] at hsys
  refine isWordOf_ite (fun h => isWordOf_plain h.symm) fun hcls => ?_
  refine isWordOf_ite (fun h => isWordOf_plain h.symm) fun hret => ?_
  refine isWordOf_ite (fun hv => ?_) fun hv => isWordOf_plain hop rfl (hsys.mpr ⟨hcls, hret, (absurd · hv)⟩)
  refine isWordOf_ite (fun h => isWordOf_extended (packXYN_of_scroll hF h) hv) fun hscd => ?_
  refine isWordOf_ite (fun h => isWordOf_extended (packXYN_of_scroll hF h) hv) fun hscu => ?_
  refine isWordOf_ite (fun h => isWordOf_extended h.symm hv) fun hscr => ?_
  refine isWordOf_ite (fun h => isWordOf_extended h.symm hv) fun hscl => ?_
  refine isWordOf_ite (fun h => isWordOf_extended h.symm hv) fun hlow => ?_
  refine isWordOf_ite (fun h => isWordOf_extended h.symm hv) fun hhigh => ?_
  exact isWordOf_plain hop rfl (hsys.mpr ⟨hcls, hret, fun _ => ⟨hscd, hscu, hscr, hscl, hlow, hhigh⟩⟩)

theorem sound_decodeFamily8 (hF : fieldF op = 8) : Sound v op (decodeFamily8 op) := by
  unfold decodeFamily8
  iterate 9 refine sound_ite (fun h => isWordOf_plain (packXYN_fields hF h)) ?_
  trivial

theorem sound_decodeFamilyE (hF : fieldF op = 14) : Sound v op (decodeFamilyE op) := by
  unfold decodeFamilyE
  iterate 2 refine sound_ite (fun h => isWordOf_plain (packXNN_fields hF h)) ?_
  trivial

/-- `FX30` is the one row of family F for SCHIP and XOCHIP only. -/
theorem sound_decodeFamilyF (hF : fieldF op = 15) : Sound v op (decodeFamilyF v op) := by
  unfold decodeFamilyF
  iterate 6 refine sound_ite (fun h => isWordOf_plain (packXNN_fields hF h)) ?_
  split
  · next h => exact sound_ite (fun hv => isWordOf_extended (packXNN_fields hF h) hv) trivial
  · iterate 5 refine sound_ite (fun h => isWordOf_plain (packXNN_fields hF h)) ?_
    trivial

theorem sound_decodeWord (v : Variant) (op : Word) : Sound v op (decodeWord v op) := by
  refine decodeWord_families (P := Sound v op) isWordOf_decodeFamily0
    ?one ?two ?three ?four ?five ?six ?seven sound_decodeFamily8
    ?nine ?ten ?eleven ?twelve ?thirteen sound_decodeFamilyE sound_decodeFamilyF
  case one | two | ten | eleven => exact fun hF => isWordOf_plain (packNNN_fields hF)
  case three | four | six | seven | twelve => exact fun hF => isWordOf_plain (packXNN_fields hF rfl)
  case five | nine => exact fun hF => sound_ite (fun h => isWordOf_plain (packXYN_fields hF h)) trivial
  case thirteen => exact fun hF => isWordOf_plain (packXYN_fields hF (finToNibble_nibbleToFin _).symm)

/-- Settles O2: whatever the decoder answers is sound. -/
theorem encodeOfDecode : Obligations.EncodeOfDecode := by
  intro v op i h
  have hsound := sound_decodeWord v op
  rwa [h] at hsound

end

end Sys2Proof
end

section
/-! PROOFS. The cycle and the step (spec/40_cycle.md, spec/60_exceptions.md section 1): totality, the gates, the
fetched instruction, and the faults. -/

-- One theorem after another: each that is elaborated beside the others takes a thread, and the check's memory bound
-- holds few.
set_option Elab.async false

namespace Sys2Proof.Machine

/-! ### Every instruction has a next state -/

theorem guarded_total (s u : State) (failed : Option (Fault × Nat)) : ∃ t, s.guarded failed u = .next t := by
  cases failed <;> exact ⟨_, rfl⟩

theorem keySkip_total (s : State) (x : RegIdx) (b : Bool) : ∃ t, s.keySkip x b = .next t := by
  unfold State.keySkip
  split <;> exact ⟨_, rfl⟩

theorem execRet_total (s : State) : ∃ t, execRet s = .next t := by
  unfold execRet
  split <;> exact ⟨_, rfl⟩

theorem execCall_total (nnn : Addr12) (s : State) : ∃ t, execCall nnn s = .next t := by
  unfold execCall
  split <;> exact ⟨_, rfl⟩

theorem execLdVxK_total (x : RegIdx) (s : State) : ∃ t, execLdVxK x s = .next t := by
  unfold execLdVxK
  split <;> exact ⟨_, rfl⟩

theorem execLdHf_total (x : RegIdx) (s : State) : ∃ t, execLdHf x s = .next t := by
  unfold execLdHf
  split <;> exact ⟨_, rfl⟩

theorem exec_total (i : Instr) (s : State) : ∃ t, exec i s = .next t := by
  cases i with
  | ret => exact execRet_total s
  | call nnn => exact execCall_total nnn s
  | drw | ldB | storeRegs | loadRegs => exact guarded_total s _ _
  | skp x => exact keySkip_total s x true
  | sknp x => exact keySkip_total s x false
  | ldVxK x => exact execLdVxK_total x s
  | ldHf x => exact execLdHf_total x s
  | _ => exact ⟨_, rfl⟩

theorem run_total (s : State) (op : Word) : ∃ t, s.run op = .next t := by
  unfold State.run
  split
  · exact exec_total _ s
  · exact ⟨_, rfl⟩

/-! ### The cycle, branch by branch (R111, R120) -/

theorem cycle_of_fault {s : State} (h : s.fault ≠ none) :
    s.cycle = .next (s.withLastOutcome (some .faulted)) :=
  if_pos (Option.isSome_iff_ne_none.mpr h)

section
variable {s : State} (hf : s.fault = none)
include hf

theorem cycle_of_displayWait (hw : s.displayWait = true) :
    s.cycle = .next (s.withLastOutcome (some .waitingDisplay)) := by
  simp only [State.cycle, hf, hw, Option.isSome_none, Bool.false_eq_true, if_false, if_true]

theorem cycle_of_open (hw : s.displayWait = false) :
    s.cycle = if s.fetchable then s.run s.fetch else .next (s.raiseFault .pcOutOfRange (s.pc.setWidth 17)) := by
  simp only [State.cycle, hf, hw, Option.isSome_none, Bool.false_eq_true, if_false]

theorem cycle_of_decode {i : Instr} (hw : s.displayWait = false) (hr : s.fetchable = true)
    (hd : decodeWord s.cfg.variant s.fetch = .ok i) : s.cycle = exec i s := by
  rw [cycle_of_open hf hw, if_pos hr, State.run, hd]

theorem cycle_of_illegal {why : Illegal} (hw : s.displayWait = false) (hr : s.fetchable = true)
    (hd : decodeWord s.cfg.variant s.fetch = .error why) :
    s.cycle = .next (s.raiseFault .illegalOpcode (s.fetch.setWidth 17)) := by
  rw [cycle_of_open hf hw, if_pos hr, State.run, hd]

theorem cycle_of_pcOutOfRange (hw : s.displayWait = false) (hr : s.fetchable ≠ true) :
    s.cycle = .next (s.raiseFault .pcOutOfRange (s.pc.setWidth 17)) := by
  rw [cycle_of_open hf hw, if_neg hr]

end

theorem cycle_total (s : State) : ∃ t, s.cycle = .next t := by
  unfold State.cycle
  split
  · exact ⟨_, rfl⟩
  · split
    · exact ⟨_, rfl⟩
    · split
      · exact run_total s _
      · exact ⟨_, rfl⟩

/-- Settles O10: every meaning answers a next state, and of the host's events only a Load can be refused. -/
theorem everyStepCompletes : Obligations.EveryStepCompletes := by
  refine ⟨exec_total, fun s hload => ?_⟩
  cases he : s.hostEvents with
  | nil => exact step_of_nil he ▸ cycle_total s
  | cons e rest =>
    rw [step_of_cons he]
    cases e with
    | cycle => exact cycle_total _
    | tick | keyEvent | displayAck => exact ⟨_, rfl⟩
    | load rom => exact absurd he (hload rom rest)

/-! ### The fetched instruction (R112 to R114) -/

/-- The two bytes at `pc`, decoded as a list, are the fetched word, decoded. -/
theorem decodeWord_of_decode_bytes {v : Variant} {hi lo : Byte} {i : Instr}
    (h : decode v [hi, lo] = .ok (i, [])) : decodeWord v (opcodeOfBytes hi lo) = .ok i := by
  simp only [decode] at h
  split at h <;> cases h
  assumption

/-- Settles O6: with the gates open the cycle of the dequeued state runs the fetched word. -/
theorem stepRunsDecoded : Obligations.StepRunsDecoded := by
  rintro s i ⟨hnext, hfault, hwait⟩ hlo hhi hdecode
  have hrun : step s = exec i s.dequeue := by
    rw [step_of_cycleNext hnext]
    exact cycle_of_decode (s := s.dequeue) hfault hwait ((fetchable_iff s).mpr ⟨hlo, hhi⟩)
      (decodeWord_of_decode_bytes hdecode)
  refine ⟨hrun, fun hnil => ?_⟩
  rw [hrun, State.dequeue_of_nil hnil]

/-! ### Placing a word at `pc` (log 15) -/

theorem State.withFetchWord_eq (s : State) (op : Word) :
    s.withFetchWord 16 op.toNat = s.ready.placeOpcode op := by
  rw [State.withFetchWord, Nat.mod_eq_of_lt op.isLt, BitVec.ofNat_toNat, BitVec.setWidth_eq]

theorem State.ready_frame (s : State) : Frame [.faultRecord, .displayWait, .schedule] s s.ready :=
  ((s.withFault_frame none).trans (k := [.faultRecord, .displayWait])
    (State.withDisplayWait_frame _ false)).trans (State.withHostEvents_frame _ [])

theorem State.readByte_placeOpcode (s : State) (op : Word) (a : Nat) :
    (s.placeOpcode op).readByte a =
      if a = s.pc.toNat then op.extractLsb' 8 8
      else if a = s.pc.toNat + 1 then op.extractLsb' 0 8 else s.readByte a := by
  rw [State.placeOpcode, State.readByte_writeBytes, bytesOfOpcode]
  simp only [List.length_cons, List.length_nil]
  by_cases h0 : a = s.pc.toNat
  · simp [h0]
  · by_cases h1 : a = s.pc.toNat + 1
    · simp [h1]
    · rw [if_neg (by omega), if_neg h0, if_neg h1]

/-- A placed word is the word fetched. -/
theorem State.fetch_placeOpcode (s : State) (op : Word) : (s.placeOpcode op).fetch = op := by
  have hpc : (s.placeOpcode op).pc = s.pc := rfl
  rw [State.fetch, hpc, State.readByte_placeOpcode, State.readByte_placeOpcode, if_pos rfl,
    if_neg (by omega), if_pos rfl, opcodeOfBytes_bytes]

/-- Settles O7: placing opens the gates and writes the two bytes at `pc`, so the step fetches the word. -/
theorem placedWordRuns : Obligations.PlacedWordRuns := by
  intro s op i hlo hhi hdecode
  rw [State.withFetchWord_eq]
  have hfetch := s.ready.fetch_placeOpcode op
  refine ⟨?_, ?_, fun a h0 h1 => ?_⟩
  · have hcfg : (s.ready.placeOpcode op).cfg = s.cfg := rfl
    have hpc : (s.ready.placeOpcode op).pc = s.pc := rfl
    have hrange : (s.ready.placeOpcode op).fetchable = true := by
      rw [fetchable_iff, hcfg, hpc]
      exact ⟨hlo, hhi⟩
    have hword : decodeWord s.cfg.variant (s.ready.placeOpcode op).fetch = .ok i := by rw [hfetch, hdecode]
    rw [step_of_nil rfl]
    exact cycle_of_decode (s := s.ready.placeOpcode op) rfl rfl hrange hword
  · exact s.ready_frame.trans (State.writeBytes_frame _ _ _)
  · rw [State.readByte_placeOpcode]
    exact (if_neg h0).trans (if_neg h1)

/-! ### The gates (R111, R118) -/

theorem pc_setWidth_toNat (w : Word) : (w.setWidth 17).toNat = w.toNat := by
  rw [BitVec.toNat_setWidth]
  omega

/-- Settles O8: the gates are the branches of the cycle, in order. -/
theorem cycleGates : Obligations.CycleGates := by
  intro s hnext
  rw [step_of_cycleNext hnext]
  refine ⟨fun hf => ?_, fun hf hw => ?_, fun hf hw hpc => ?_⟩
  · exact ⟨_, cycle_of_fault (s := s.dequeue) hf, State.withLastOutcome_frame _ _, rfl⟩
  · exact ⟨_, cycle_of_displayWait (s := s.dequeue) hf hw, State.withLastOutcome_frame _ _, rfl⟩
  · have hr : s.dequeue.fetchable ≠ true := fun h => by
      have := (fetchable_iff s).mp h
      omega
    refine ⟨_, cycle_of_pcOutOfRange (s := s.dequeue) hf hw hr, ?_⟩
    exact pc_setWidth_toNat s.pc ▸ State.raiseFault_takes _ _ _

/-! ### Faults are final (R264) -/

section
variable {s : State} (h : s.fault ≠ none)
include h

theorem tick_of_fault : s.tick = s := if_pos (Option.isSome_iff_ne_none.mpr h)

theorem keyEvent_of_fault (k : KeyIdx) (pressed : Bool) : s.keyEvent k pressed = s :=
  if_pos (Option.isSome_iff_ne_none.mpr h)

/-- After a fault a transition changes at most the outcome, `draw_flag` and the schedule, but for a load, which only
comes before the first cycle. -/
theorem step_of_fault {t : State} (hstep : step s = .next t) :
    (Frame [.outcome, .drawFlag, .schedule] s t ∧
      (t.lastOutcome = s.lastOutcome ∨ t.lastOutcome = some .faulted)) ∨
    (s.lastOutcome = none ∧ Frame [.memory, .romLoaded, .schedule] s t) := by
  cases he : s.hostEvents with
  | nil =>
    rw [step_of_nil he, cycle_of_fault h] at hstep
    cases hstep
    exact .inl ⟨(s.withLastOutcome_frame _).mono, .inr rfl⟩
  | cons e rest =>
    have hq : Frame [.schedule] s (s.withHostEvents rest) := s.withHostEvents_frame rest
    rw [step_of_cons he] at hstep
    cases e with
    | cycle =>
      rw [State.apply, cycle_of_fault (s := s.withHostEvents rest) h] at hstep
      cases hstep
      exact .inl ⟨hq.trans (State.withLastOutcome_frame _ _), .inr rfl⟩
    | tick =>
      rw [State.apply, tick_of_fault (s := s.withHostEvents rest) h] at hstep
      cases hstep
      exact .inl ⟨hq.mono, .inl rfl⟩
    | keyEvent k pressed =>
      rw [State.apply, keyEvent_of_fault (s := s.withHostEvents rest) h] at hstep
      cases hstep
      exact .inl ⟨hq.mono, .inl rfl⟩
    | displayAck =>
      cases hstep
      exact .inl ⟨hq.trans (State.withDrawFlag_frame _ false), .inl rfl⟩
    | load rom =>
      obtain ⟨hnone, -, -, rfl⟩ := load_cases hstep
      exact .inr ⟨hnone, (hq.trans (k := [.memory, .schedule]) (State.withMem_frame _ _)).trans
        (State.withRomLoaded_frame _ true)⟩

/-- A fault stays recorded through every transition (R264). -/
theorem step_keeps_fault {t : State} (hstep : step s = .next t) :
    t.fault = s.fault ∧ t.faultPc = s.faultPc ∧ t.faultInfo = s.faultInfo := by
  rcases step_of_fault h hstep with ⟨hframe, -⟩ | ⟨-, hframe⟩
  · exact hframe.2 .faultRecord (by simp)
  · exact hframe.2 .faultRecord (by simp)

end

/-- The fetched word as a number, big-endian (R112). -/
theorem fetch_toNat (s : State) :
    s.fetch.toNat = (s.readByte s.pc.toNat).toNat * 256 + (s.readByte (s.pc.toNat + 1)).toNat := by
  rw [State.fetch, opcodeOfBytes, BitVec.toNat_append, ← Nat.shiftLeft_add_eq_or_of_lt (BitVec.isLt _),
    Nat.shiftLeft_eq]

/-- Settles O9: the word fetched is `op`, the fault is taken, and `step_of_fault` freezes the rest. -/
theorem illegalOpcodeFault : Obligations.IllegalOpcodeFault := by
  rintro s op why ⟨hnext, hf, hw⟩ hlo hhi hop hdecode
  have hfetch : s.fetch = op := BitVec.eq_of_toNat_eq ((fetch_toNat s).trans hop.symm)
  refine ⟨_, (step_of_cycleNext hnext).trans (cycle_of_illegal (s := s.dequeue) hf hw
    ((fetchable_iff s).mpr ⟨hlo, hhi⟩) (hfetch ▸ hdecode)), ?_, fun events u hstep => ?_⟩
  · rw [State.dequeue_fetch, hfetch]
    exact pc_setWidth_toNat op ▸ State.raiseFault_takes _ _ _
  · rcases step_of_fault (Option.some_ne_none _) hstep with ⟨hframe, hout⟩ | ⟨hnone, -⟩
    · exact ⟨(State.withHostEvents_frame _ events).trans hframe, hout.elim id id⟩
    · cases hnone

/-- Settles O12: `cycle_of_fault`, `tick_of_fault` and `keyEvent_of_fault`, one for each kind of event. -/
theorem faultsAreFinal : Obligations.FaultsAreFinal := fun s h =>
  ⟨⟨_, cycle_of_fault h, s.withLastOutcome_frame _⟩, tick_of_fault h, keyEvent_of_fault h,
    s.withDrawFlag_frame false, rfl, fun _ => step_keeps_fault h⟩

end Sys2Proof.Machine
end

section
/-! PROOFS. What an instruction cannot change, precise faults, and the host's events (spec/60_exceptions.md,
spec/20_memory.md section 5). -/

-- One theorem after another: each that is elaborated beside the others takes a thread, and the check's memory bound
-- holds few.
set_option Elab.async false

namespace Sys2Proof.Machine

variable {s t : State} {i : Instr}

/-! ### What `exec_cases` leaves alone -/

theorem faultRecord_not_written (i : Instr) : .faultRecord ∉ writtenParts i := by
  cases i <;> simp [writtenParts]

/-- An instruction keeps every part it does not write, whether it faults or is taken whole. -/
theorem exec_keeps (h : exec i s = .next t) {p : Part} (hp : p ∉ writtenParts i)
    (hne : p ∉ [.pc, .outcome, .faultRecord] := by simp) : p.same s t := by
  simp only [List.mem_cons, List.not_mem_nil, or_false, not_or] at hne
  obtain ⟨hpc, hout, hrec⟩ := hne
  rcases exec_cases h with ⟨r, info, rfl⟩ | ⟨hframe, -⟩
  · exact (s.raiseFault_frame r info).2 p (by simp [hout, hrec])
  · exact hframe.2 p (by simp [hpc, hout, hp])

theorem exec_cfg (h : exec i s = .next t) : t.cfg = s.cfg := by
  rcases exec_cases h with ⟨r, info, rfl⟩ | ⟨hframe, -⟩
  · rfl
  · exact hframe.1

theorem cycle_cfg (h : s.cycle = .next t) : t.cfg = s.cfg := by
  rcases cycle_cases h with ⟨-, rfl⟩ | ⟨-, -, rfl⟩ | ⟨-, -, ⟨r, info, rfl⟩ | ⟨i, -, -, hexec⟩⟩
  · rfl
  · rfl
  · rfl
  · exact exec_cfg hexec

theorem State.tick_frame (s : State) : Frame [.delayTimer, .soundTimer, .displayWait] s s.tick := by
  unfold State.tick
  split
  · exact Frame.refl _ s
  · exact ((s.withDt_frame _).trans (k := [.delayTimer, .soundTimer]) (State.withSt_frame _ _)).trans
      (State.withDisplayWait_frame _ _)

theorem State.keyEvent_frame (s : State) (k : KeyIdx) (pressed : Bool) :
    Frame [.keys, .keyWait] s (s.keyEvent k pressed) := by
  unfold State.keyEvent
  split
  · exact Frame.refl _ s
  · exact (s.withKeyState_frame _).trans (State.withKeyWait_frame _ _)

/-- Settles O18: no operation of the model writes the parameters. -/
theorem parametersNeverChange : Obligations.ParametersNeverChange := by
  intro s t h
  refine step_induction (P := fun s t => t.cfg = s.cfg) ?cycleNil ?cycle ?tick ?key ?ack ?load h
  case cycleNil => exact fun _ _ _ => cycle_cfg
  case cycle => exact fun s rest _ h => cycle_cfg (s := s.withHostEvents rest) h
  case tick => exact fun _ _ => (State.tick_frame _).1
  case key => exact fun _ _ k pressed => (State.keyEvent_frame _ k pressed).1
  case ack => exact fun _ _ => rfl
  case load =>
    intro s rest rom t h
    obtain ⟨-, -, -, rfl⟩ := load_cases h
    rfl

/-- Settles O11: of a cycle's endings only a raised fault leaves a fault where there was none. -/
theorem faultsArePrecise : Obligations.FaultsArePrecise := by
  intro s t hnext hf hstep hfault
  have hraise (r : Fault) (info : FaultInfo) (ht : t = s.dequeue.raiseFault r info) :
      Frame [.faultRecord, .outcome] s.dequeue t ∧ t.faultPc = s.pc ∧ t.lastOutcome = some .faulted :=
    ht ▸ ⟨State.raiseFault_frame _ r info, rfl, rfl⟩
  rw [step_of_cycleNext hnext] at hstep
  rcases cycle_cases hstep with ⟨hne, -⟩ | ⟨-, -, rfl⟩ | ⟨-, -, ⟨r, info, ht⟩ | ⟨i, -, -, hexec⟩⟩
  · exact absurd hf hne
  · exact absurd hf hfault
  · exact hraise r info ht
  · rcases exec_cases hexec with ⟨r, info, ht⟩ | ⟨hframe, -⟩
    · exact hraise r info ht
    · have hsame := hframe.2 .faultRecord (by simp [faultRecord_not_written])
      exact absurd (hsame.1.trans hf) hfault

/-! ### The host's events (R270 to R274, R87) -/

theorem satDec_toNat (b : Byte) : (satDec b).toNat = b.toNat - 1 := by
  unfold satDec
  split
  · next h => rw [h]; rfl
  · bv_omega

/-- Settles O14: the two branches of `State.tick`, and natural-number subtraction stops at 0. -/
theorem tickCountsDown : Obligations.TickCountsDown := by
  intro s rest he
  have hq : Frame [.schedule] s (s.withHostEvents rest) := s.withHostEvents_frame rest
  have hevents : (s.withHostEvents rest).tick.hostEvents = rest := (State.tick_frame _).2 .schedule (by simp)
  refine ⟨_, step_of_cons he, hevents, fun hf => ?_, fun hf => ⟨hq.trans (State.tick_frame _), ?_⟩⟩
  · rw [tick_of_fault (s := s.withHostEvents rest) hf]
    exact hq
  · have htick : (s.withHostEvents rest).tick =
        (((s.withHostEvents rest).withDt (satDec s.dt)).withSt (satDec s.st)).withDisplayWait false :=
      if_neg (by simp [hf])
    rw [htick]
    exact ⟨satDec_toNat s.dt, satDec_toNat s.st, rfl⟩

/-- Settles O15: the two branches of `State.keyEvent`, and the cases of the wait, the key and the event. -/
theorem keyEventsDriveTheWait : Obligations.KeyEventsDriveTheWait := by
  intro s k pressed rest he
  have hq : Frame [.schedule] s (s.withHostEvents rest) := s.withHostEvents_frame rest
  have hevents : ((s.withHostEvents rest).keyEvent k pressed).hostEvents = rest :=
    (State.keyEvent_frame _ k pressed).2 .schedule (by simp)
  refine ⟨_, step_of_cons he, hevents, fun hf => ?_,
    fun hf => ⟨hq.trans (State.keyEvent_frame _ k pressed), ?_⟩⟩
  · rw [keyEvent_of_fault (s := s.withHostEvents rest) hf]
    exact hq
  · have hkey : (s.withHostEvents rest).keyEvent k pressed =
        ((s.withHostEvents rest).withKeyState (s.keyState.set k.val pressed)).withKeyWait
          (s.keyWait.afterKey k s.keyState[k.val] pressed) := if_neg (by simp [hf])
    rw [hkey]
    simp only [State.withKeyWait_keyState, State.withKeyState_keyState, State.withKeyWait_keyWait]
    refine ⟨fun j => ?_, fun ha hp hr => ?_, fun ha hp => ?_, fun ha => ?_⟩
    · rw [Vector.getElem_set]
      simp only [Fin.ext_iff, eq_comm]
    · simp [ha, hp, hr, KeyWait.afterKey]
    · rw [ha]
      rcases hp with hp | hp <;> simp [hp, KeyWait.afterKey]
    · cases hw : s.keyWait with
      | armed => exact absurd hw ha
      | idle | captured => rfl

theorem loadable_iff (s : State) : s.loadable = true ↔ s.lastOutcome = none ∧ s.romLoaded = false := by
  simp [State.loadable]

/-- A load in its place copies the ROM, if it fits (R87). -/
theorem load_of_loadable {rom : List Byte} (h : s.loadable = true) :
    s.load rom =
      if 0x200 + rom.length ≤ s.cfg.cap then
        .next ((s.withMem (Memory.placeRom s.cfg s.mem 0x200 rom)).withRomLoaded true)
      else .refused .romTooLarge := if_pos h

theorem load_of_not_loadable {rom : List Byte} (h : s.loadable ≠ true) :
    s.load rom = .refused .loadNotAllowed := if_neg h

theorem State.readByte_placeRom (s : State) (rom : List Byte) (a : Nat) :
    (s.withMem (Memory.placeRom s.cfg s.mem 0x200 rom)).readByte a =
      if 0x200 ≤ a ∧ a < 0x200 + rom.length then rom.getD (a - 0x200) 0 else s.readByte a :=
  Memory.read_placeRom s.cfg s.mem rom 0x200 a

/-- Settles O16: `State.loadable` separates the load in its place from the one that is refused. -/
theorem ackAndLoad : Obligations.AckAndLoad := by
  intro s rest
  have hq : Frame [.schedule] s (s.withHostEvents rest) := s.withHostEvents_frame rest
  refine ⟨fun he => ?_, fun rom he => ?_⟩
  · exact ⟨_, step_of_cons he, rfl, rfl, hq.trans (State.withDrawFlag_frame _ false)⟩
  · rw [step_of_cons he]
    have hloadable := loadable_iff (s.withHostEvents rest)
    refine ⟨fun ho hr hfit => ?_, fun ho hr hlong => ?_, fun hno => ?_⟩
    · have hload := load_of_loadable (rom := rom) (hloadable.mpr ⟨ho, hr⟩)
      rw [if_pos (Nat.add_comm .. ▸ hfit)] at hload
      refine ⟨_, hload, rfl, rfl, ?_, fun k hk => ?_, fun a ha => ?_⟩
      · exact (hq.trans (k := [.memory, .schedule]) (State.withMem_frame _ _)).trans
          (State.withRomLoaded_frame _ true)
      · rw [State.withRomLoaded_readByte, State.readByte_placeRom, if_pos (by omega), Nat.add_sub_cancel_left]
      · rw [State.withRomLoaded_readByte, State.readByte_placeRom, if_neg (by omega),
          State.withHostEvents_readByte]
    · have hload := load_of_loadable (rom := rom) (hloadable.mpr ⟨ho, hr⟩)
      rwa [if_neg (not_le.mpr (Nat.add_comm .. ▸ hlong))] at hload
    · refine load_of_not_loadable fun h => ?_
      obtain ⟨ho, hr⟩ := hloadable.mp h
      rcases hno with hno | hno
      · exact hno ho
      · cases hr.symm.trans hno

end Sys2Proof.Machine
end

section
/-! PROOFS. The invariants (spec/10_state.md, spec/20_memory.md section 3): the fonts, `I < CAP`, the invariant of the
machine, and the key wait. -/

-- One theorem after another: each that is elaborated beside the others takes a thread, and the check's memory bound
-- holds few.
set_option Elab.async false

namespace Sys2Proof.Machine

variable {s t : State} {i : Instr}

/-- A part that differs after an instruction is one the instruction writes. -/
theorem written_of_not_same (h : exec i s = .next t) {p : Part} (hs : ¬p.same s t)
    (hne : p ∉ [.pc, .outcome, .faultRecord] := by simp) : p ∈ writtenParts i :=
  by_contra fun hp => hs (exec_keeps h hp hne)

/-! ### Memory (R77, R80) -/

/-- What a step does to the memory list: nothing, or bytes written in `[0x200, CAP)`, as a store or as a ROM. -/
def MemoryKept (s t : State) : Prop :=
  t.mem = s.mem ∨ ∃ a bs, 0x200 ≤ a ∧ a + bs.length ≤ s.cfg.cap ∧
    (t.mem = Memory.writeBytes s.cfg s.mem a bs ∨ t.mem = Memory.placeRom s.cfg s.mem a bs)

theorem cycle_memory (h : s.cycle = .next t) : MemoryKept s t := by
  rcases cycle_cases h with ⟨-, rfl⟩ | ⟨-, -, rfl⟩ | ⟨-, -, ⟨r, info, rfl⟩ | ⟨i, -, -, hexec⟩⟩
  · exact .inl rfl
  · exact .inl rfl
  · exact .inl rfl
  · rcases exec_memory hexec with hm | ⟨bs, hlo, hhi, hm⟩
    · exact .inl hm
    · exact .inr ⟨s.i.toNat, bs, hlo, hhi, .inl hm⟩

@[simp] theorem State.tick_mem (s : State) : s.tick.mem = s.mem := by
  unfold State.tick; split <;> rfl

@[simp] theorem State.keyEvent_mem (s : State) (k : KeyIdx) (pressed : Bool) :
    (s.keyEvent k pressed).mem = s.mem := by
  unfold State.keyEvent; split <;> rfl

theorem step_memory (h : step s = .next t) : MemoryKept s t := by
  refine step_induction (P := MemoryKept) ?cycleNil ?cycle ?tick ?key ?ack ?load h
  case cycleNil => exact fun _ _ _ => cycle_memory
  case cycle => exact fun s rest _ h => cycle_memory (s := s.withHostEvents rest) h
  case tick => exact fun s rest => .inl (s.withHostEvents rest).tick_mem
  case key => exact fun s rest k pressed => .inl ((s.withHostEvents rest).keyEvent_mem k pressed)
  case ack => exact fun _ _ => .inl rfl
  case load =>
    intro s rest rom t h
    obtain ⟨-, -, hfit, rfl⟩ := load_cases h
    exact .inr ⟨0x200, rom, le_rfl, hfit, .inr rfl⟩

/-- Settles O19: a step writes at and above 0x200 only, and the parameters are kept. -/
theorem fontsNeverChange : Obligations.FontsNeverChange := by
  intro s t h a ha
  unfold State.readByte
  rw [parametersNeverChange s t h]
  rcases step_memory h with hm | ⟨b, bs, hlo, -, hm | hm⟩
  · rw [hm]
  · rw [hm, Memory.read_writeBytes, if_neg (by omega)]
  · rw [hm, Memory.read_placeRom, if_neg (by omega)]

theorem memoryKept_wf (h : MemoryKept s t) (hm : Memory.wf s.cfg s.mem) : Memory.wf s.cfg t.mem := by
  rcases h with h | ⟨b, bs, -, -, h | h⟩ <;> rw [h]
  · exact hm
  · exact Memory.writeBytes_wf _ _ bs b hm
  · exact Memory.placeRom_wf _ _ bs b hm

theorem memoryKept_writable (h : MemoryKept s t) (hm : ∀ p ∈ s.mem, 0x200 ≤ p.1 ∧ p.1 < s.cfg.cap) :
    ∀ p ∈ t.mem, 0x200 ≤ p.1 ∧ p.1 < s.cfg.cap := by
  intro p hp
  rcases h with h | ⟨b, bs, hlo, hhi, h | h⟩ <;> rw [h] at hp
  · exact hm p hp
  · rcases Memory.mem_writeBytes _ _ bs b hp with hp | hp
    · omega
    · exact hm p hp
  · rcases Memory.mem_placeRom _ _ bs b hp with hp | hp
    · omega
    · exact hm p hp

/-! ### `I < CAP` (R34, R221 to R225, R232) -/

theorem cap_bounds (c : Config) : 4096 ≤ c.cap ∧ c.cap ≤ 65536 := by
  unfold Config.cap
  cases c.variant <;> simp [Variant.cap]

theorem zext16_toNat (nnn : Addr12) : (zext16 nnn).toNat = nnn.toNat := by
  rw [zext16, BitVec.toNat_setWidth]
  omega

theorem lowNibble_val (b : Byte) : (lowNibble b).val = b.toNat % 16 := by
  simp [lowNibble, nibbleToFin]

theorem glyphLoAddr_toNat (b : Byte) : (glyphLoAddr b).toNat = 5 * (b.toNat % 16) := by
  rw [glyphLoAddr, BitVec.toNat_ofNat, lowNibble_val]
  omega

theorem addressSum_lt (s : State) (x : RegIdx) : s.addressSum x < s.i.toNat + 256 := by
  have := (s.reg x).isLt
  unfold State.addressSum
  omega

/-- `I` after `FX1E`, with no wrap of its own: the sum stays below 2^16 (R221, R222). -/
theorem addressWrapped_toNat (s : State) (x : RegIdx) :
    (s.addressWrapped x).toNat =
      if s.cfg.cap ≤ s.addressSum x then s.addressSum x - s.cfg.cap else s.addressSum x := by
  have hcap := cap_bounds s.cfg
  have hsum := addressSum_lt s x
  have hi := s.i.isLt
  rw [State.addressWrapped, BitVec.toNat_ofNat, State.addressOverflow]
  simp only [decide_eq_true_eq]
  split <;> omega

theorem addressWrapped_lt (s : State) (x : RegIdx) (hi : s.i.toNat < s.cfg.cap) :
    (s.addressWrapped x).toNat < s.cfg.cap := by
  have hcap := cap_bounds s.cfg
  have hsum := addressSum_lt s x
  rw [addressWrapped_toNat]
  split <;> omega

/-- `I` after a transfer (R232). -/
theorem afterTransfer_toNat (s : State) (x : RegIdx) :
    (s.afterTransfer x).toNat =
      if s.cfg.variant = .schip then s.i.toNat else (s.i.toNat + x.val + 1) % s.cfg.cap := by
  have hcap := cap_bounds s.cfg
  have hmod := Nat.mod_lt (s.i.toNat + x.val + 1) (show 0 < s.cfg.cap by omega)
  unfold State.afterTransfer
  split
  · rfl
  · rw [BitVec.toNat_ofNat]
    omega

theorem afterTransfer_lt (s : State) (x : RegIdx) (hi : s.i.toNat < s.cfg.cap) :
    (s.afterTransfer x).toNat < s.cfg.cap := by
  rw [afterTransfer_toNat]
  split
  · exact hi
  · exact Nat.mod_lt _ (by omega)

/-- `I` after `FX30`: the glyph's address, or `I` as before above digit 9 (R225). -/
theorem glyphHi_toNat (s : State) (x : RegIdx) :
    (s.glyphHi x).toNat =
      if (s.reg x).toNat % 16 ≤ 9 then (s.cfg.fontHiBase.toNat + 10 * ((s.reg x).toNat % 16)) % 65536
      else s.i.toNat := by
  unfold State.glyphHi glyphHiAddr
  rw [lowNibble_val]
  split
  · rw [Option.getD_some, BitVec.toNat_add, BitVec.toNat_ofNat]
    omega
  · rfl

theorem glyphHi_lt (s : State) (x : RegIdx) (hc : s.cfg.Wf) (hi : s.i.toNat < s.cfg.cap) :
    (s.glyphHi x).toNat < s.cfg.cap := by
  have hcap := cap_bounds s.cfg
  obtain ⟨-, -, -, hbase⟩ := hc
  rw [glyphHi_toNat]
  split
  · rw [Nat.mod_eq_of_lt (by omega)]
    omega
  · exact hi

/-- A guarded effect with `I` in range, from a state with `I` in range. -/
theorem index_of_guarded {u : State} {failed : Option (Fault × Nat)} (h : s.guarded failed u = .next t)
    (hi : s.i.toNat < s.cfg.cap) (hu : u.i.toNat < s.cfg.cap) : t.i.toNat < s.cfg.cap := by
  rcases s.guarded_cases _ _ _ h with ⟨-, rfl⟩ | ⟨r, a, -, rfl⟩
  · exact hu
  · exact hi

@[simp] theorem State.addressFlag_i (s : State) (o : Bool) : (s.addressFlag o).i = s.i :=
  (s.addressFlag_frame o).2 .index (by simp)

/-- The instructions that write `I` leave it below CAP; the others keep it. -/
theorem exec_index (hc : s.cfg.Wf) (hi : s.i.toNat < s.cfg.cap) (h : exec i s = .next t) :
    t.i.toNat < s.cfg.cap := by
  have hcap := cap_bounds s.cfg
  by_cases hw : .index ∈ writtenParts i
  · cases i with
    | ldI nnn =>
      cases h
      exact (zext16_toNat nnn).trans_lt (by omega)
    | addI x =>
      cases h
      rw [State.advance_i, State.addressFlag_i]
      exact addressWrapped_lt s x hi
    | ldF x =>
      cases h
      exact (glyphLoAddr_toNat (s.reg x)).trans_lt (by omega)
    | ldHf x =>
      simp only [exec, execLdHf] at h
      split at h <;> cases h
      · exact glyphHi_lt s x hc hi
      · exact hi
    | storeRegs x => exact index_of_guarded h hi (afterTransfer_lt s x hi)
    | loadRegs x => exact index_of_guarded h hi (afterTransfer_lt s x hi)
    | _ => simp [writtenParts] at hw
  · rw [exec_keeps h hw]
    exact hi

theorem cycle_index (hc : s.cfg.Wf) (hi : s.i.toNat < s.cfg.cap) (h : s.cycle = .next t) :
    t.i.toNat < s.cfg.cap := by
  rcases cycle_cases h with ⟨-, rfl⟩ | ⟨-, -, rfl⟩ | ⟨-, -, ⟨r, info, rfl⟩ | ⟨i, -, -, hexec⟩⟩
  · exact hi
  · exact hi
  · exact hi
  · exact exec_index hc hi hexec

/-- Settles O20: only a cycle writes `I`. -/
theorem indexStaysBelowCap : Obligations.IndexStaysBelowCap := by
  intro s t hc hi h
  revert hc hi
  refine step_induction (P := fun s t => s.cfg.Wf → s.i.toNat < s.cfg.cap → t.i.toNat < s.cfg.cap)
    ?cycleNil ?cycle ?tick ?key ?ack ?load h
  case cycleNil => exact fun _ _ _ h hc hi => cycle_index hc hi h
  case cycle => exact fun s rest _ h hc hi => cycle_index (s := s.withHostEvents rest) hc hi h
  case tick => 
    intro s rest _ hi
    rwa [(State.tick_frame _).2 .index (by simp)]
  case key =>
    intro s rest k pressed _ hi
    rwa [(State.keyEvent_frame _ k pressed).2 .index (by simp)]
  case ack => exact fun _ _ _ hi => hi
  case load =>
    intro s rest rom t h _ hi
    obtain ⟨-, -, -, rfl⟩ := load_cases h
    exact hi

end Sys2Proof.Machine
end

section
/-! PROOFS. The invariant of the machine and the key wait: every transition keeps both, and construction establishes
them (spec/10_state.md sections 2 to 14). -/

-- One theorem after another: each that is elaborated beside the others takes a thread, and the check's memory bound
-- holds few.
set_option Elab.async false

namespace Sys2Proof.Machine

variable {s t u : State} {i : Instr}

/-! ### The framebuffer (R42 to R44) -/

/-- A framebuffer in canonical form, with no cell off the screen (R42, log 9). -/
def GfxOk (v : Variant) (g : Gfx) : Prop := g.wf ∧ ∀ p ∈ g, p.1 < v.screenHeight ∧ p.2 < v.screenWidth

theorem gfxOk_clear (v : Variant) : GfxOk v Gfx.clear :=
  ⟨Gfx.clear_wf, fun _ hp => absurd hp List.not_mem_nil⟩

/-- A move of cells that keeps row-major order and leaves no cell of a surface on the screen off it. -/
def MoveOk (v : Variant) (h w : Nat) (move : Nat × Nat → Option (Nat × Nat)) : Prop :=
  (∀ p q p' q', cellBefore p q = true → move p = some p' → move q = some q' → cellBefore p' q' = true) ∧
    ∀ p q, p.1 < h → p.2 < w → move p = some q → q.1 < v.screenHeight ∧ q.2 < v.screenWidth

theorem gfxOk_scroll {v : Variant} {g : Gfx} {h w : Nat} {move : Nat × Nat → Option (Nat × Nat)}
    (hg : GfxOk v g) (hm : MoveOk v h w move) : GfxOk v (g.scroll h w move) := by
  refine ⟨Gfx.scroll_wf g h w move hg.1 hm.1, fun q hq => ?_⟩
  rcases (Gfx.mem_scroll g h w move q).mp hq with ⟨hq, -⟩ | ⟨p, -, hp, hpq⟩
  · exact hg.2 q hq
  · simp only [onSurface, Bool.and_eq_true, decide_eq_true_eq] at hp
    exact hm.2 p q hp.1 hp.2 hpq

section
variable {v : Variant} {h w : Nat} (hh : h ≤ v.screenHeight) (hw : w ≤ v.screenWidth) (n : Nat)
include hh hw

theorem moveOk_down : MoveOk v h w (moveDown h n) := by
  constructor <;> simp only [moveDown, cellBefore_iff, Option.ite_none_right_eq_some, Option.some.injEq,
    Prod.ext_iff] <;> omega

theorem moveOk_up : MoveOk v h w (moveUp n) := by
  constructor <;> simp only [moveUp, cellBefore_iff, Option.ite_none_right_eq_some, Option.some.injEq,
    Prod.ext_iff] <;> omega

theorem moveOk_right : MoveOk v h w (moveRight w n) := by
  constructor <;> simp only [moveRight, cellBefore_iff, Option.ite_none_right_eq_some, Option.some.injEq,
    Prod.ext_iff] <;> omega

theorem moveOk_left : MoveOk v h w (moveLeft n) := by
  constructor <;> simp only [moveLeft, cellBefore_iff, Option.ite_none_right_eq_some, Option.some.injEq,
    Prod.ext_iff] <;> omega

end

/-- The meaning of an "S/X" instruction on CHIP8, and where it exists (R95). -/
theorem onExtended_of_chip8 (hv : s.cfg.variant = .chip8) : s.onExtended u = .next (s.advance 2) := by
  rw [State.onExtended, hv]
  rfl

theorem onExtended_of_ne_chip8 (hv : s.cfg.variant ≠ .chip8) : s.onExtended u = .next (u.advance 2) := by
  rw [State.onExtended, if_pos ((isExtended_iff _).mpr hv)]

theorem hires_congr (hc : t.cfg = s.cfg) (hh : t.hiresFlag = s.hiresFlag) : t.hires = s.hires := by
  rw [State.hires, State.hires, hc, hh]

/-- What a draw writes before `Delta(2)`: the framebuffer, `draw_flag` and the collision (R193, R195). -/
def State.plotted (s : State) (x y : RegIdx) (n : Count) : State :=
  (s.present (s.drawSprite (s.spriteGeom x y n)).1).setFlag
    (collisionFlag (s.drawSprite (s.spriteGeom x y n)).2)

/-- The state a draw that takes no fault leaves (R193, R117). -/
def State.drawn (s : State) (x y : RegIdx) (n : Count) : State := ((s.plotted x y n).advance 2).waitForDisplay

theorem exec_drw (x y : RegIdx) (n : Count) (s : State) :
    exec (.drw x y n) s = s.guarded (s.checkRead (s.dataAddr 0) (s.spriteGeom x y n).nbytes) (s.drawn x y n) := rfl

section
variable (s : State) (x y : RegIdx) (n : Count)

@[simp] theorem State.waitForDisplay_gfx : s.waitForDisplay.gfx = s.gfx :=
  s.waitForDisplay_frame.2 .framebuffer (by simp)

@[simp] theorem State.waitForDisplay_drawFlag : s.waitForDisplay.drawFlag = s.drawFlag :=
  s.waitForDisplay_frame.2 .drawFlag (by simp)

@[simp] theorem State.waitForDisplay_pc : s.waitForDisplay.pc = s.pc := s.waitForDisplay_frame.2 .pc (by simp)

@[simp] theorem State.waitForDisplay_lastOutcome : s.waitForDisplay.lastOutcome = s.lastOutcome :=
  s.waitForDisplay_frame.2 .outcome (by simp)

@[simp] theorem State.waitForDisplay_reg (r : RegIdx) : s.waitForDisplay.reg r = s.reg r :=
  (s.waitForDisplay_frame.2 .regs (by simp) : Part.regs.same s _) r

theorem State.waitForDisplay_displayWait :
    s.waitForDisplay.displayWait = (s.displayWait || s.cfg.variant.loresDisplayWait && !s.hires) := by
  unfold State.waitForDisplay
  split
  · next h => rw [h, Bool.or_true]; rfl
  · next h => rw [Bool.eq_false_iff.mpr h, Bool.or_false]

theorem State.plotted_frame : Frame [.framebuffer, .drawFlag, .regs] s (s.plotted x y n) :=
  (s.present_frame _).trans (State.setFlag_frame _ _)

theorem State.drawn_gfx : (s.drawn x y n).gfx = (s.drawSprite (s.spriteGeom x y n)).1 := by
  rw [State.drawn, State.waitForDisplay_gfx, State.advance_gfx]
  rfl

theorem State.drawn_drawFlag : (s.drawn x y n).drawFlag = true := by
  rw [State.drawn, State.waitForDisplay_drawFlag, State.advance_drawFlag]
  rfl

theorem State.drawn_displayWait :
    (s.drawn x y n).displayWait = (s.displayWait || s.cfg.variant.loresDisplayWait && !s.hires) := by
  have hframe : Frame [.framebuffer, .drawFlag, .regs, .pc, .outcome] s ((s.plotted x y n).advance 2) :=
    (s.plotted_frame x y n).trans (State.advance_frame _ 2)
  have hwait : ((s.plotted x y n).advance 2).displayWait = s.displayWait := hframe.2 .displayWait (by simp)
  rw [State.drawn, State.waitForDisplay_displayWait, hwait, hframe.1,
    hires_congr hframe.1 (hframe.2 .resolution (by simp))]

/-- `VF` is the collision; every other register is kept (R193). -/
theorem State.drawn_reg (r : RegIdx) :
    (s.drawn x y n).reg r =
      if r = flagReg then collisionFlag (s.drawSprite (s.spriteGeom x y n)).2 else s.reg r := by
  rw [State.drawn, State.waitForDisplay_reg, State.advance_reg, State.plotted, State.reg_setFlag]
  rfl

theorem State.drawn_stepped : Stepped s (s.drawn x y n) 2 := by
  have hpc : (s.plotted x y n).pc = s.pc := (s.plotted_frame x y n).2 .pc (by simp)
  rw [Stepped, State.drawn, State.waitForDisplay_pc, State.waitForDisplay_lastOutcome]
  exact stepped_of_advance 2 hpc

end

theorem effSurface_le (s : State) :
    s.effHeight ≤ s.cfg.variant.screenHeight ∧ s.effWidth ≤ s.cfg.variant.screenWidth := by
  rw [effHeight_eq, effWidth_eq]
  exact (surface_le_screen s).symm

/-- A covered cell lies on the surface. -/
theorem covers_lt {x y : RegIdx} {n : Count} {yy xx : Nat} (h : Covers s x y n yy xx) :
    yy < surfaceHeight s ∧ xx < surfaceWidth s := by
  obtain ⟨r, c, -, -, -, hland⟩ := h
  have := surface_ge s
  simp only [LandsOn] at hland
  split at hland
  · rw [hland.1, hland.2]
    exact ⟨Nat.mod_lt _ (by omega), Nat.mod_lt _ (by omega)⟩
  · exact ⟨hland.2.2.1, hland.2.2.2⟩

theorem gfxOk_drawSprite (x y : RegIdx) (n : Count) (hg : GfxOk s.cfg.variant s.gfx) :
    GfxOk s.cfg.variant (s.drawSprite (s.spriteGeom x y n)).1 := by
  refine ⟨plot_foldl_wf _ _ _ hg.1, fun q hq => ?_⟩
  rcases mem_plot_foldl _ _ _ hq with hq | hq
  · have hlt := covers_lt ((mem_spriteCells s x y n q.1 q.2).mp hq)
    have hle := surface_le_screen s
    omega
  · exact hg.2 q hq

theorem gfx_of_onExtended {P : Gfx → Prop} (h : s.onExtended u = .next t) (hu : P u.gfx) (hs : P s.gfx) :
    P t.gfx := by
  cases h
  show P (State.gfx (ite _ _ _))
  split
  · exact hu
  · exact hs

theorem exec_gfxOk (h : exec i s = .next t) (hg : GfxOk s.cfg.variant s.gfx) : GfxOk s.cfg.variant t.gfx := by
  obtain ⟨hh, hw⟩ := effSurface_le s
  have hselect (high : Bool) : GfxOk s.cfg.variant (s.selectResolution high).gfx := by
    show GfxOk _ (ite _ _ _)
    split
    · exact gfxOk_clear _
    · exact hg
  by_cases hp : .framebuffer ∈ writtenParts i
  · cases i with
    | cls => cases h; exact gfxOk_clear _
    | scd n => exact gfx_of_onExtended h (gfxOk_scroll hg (moveOk_down hh hw n.val)) hg
    | scu n => exact gfx_of_onExtended h (gfxOk_scroll hg (moveOk_up hh hw n.val)) hg
    | scr => exact gfx_of_onExtended h (gfxOk_scroll hg (moveOk_right hh hw 4)) hg
    | scl => exact gfx_of_onExtended h (gfxOk_scroll hg (moveOk_left hh hw 4)) hg
    | low => exact gfx_of_onExtended h (hselect false) hg
    | high => exact gfx_of_onExtended h (hselect true) hg
    | drw x y n =>
      rw [exec_drw] at h
      rcases s.guarded_cases _ _ _ h with ⟨-, rfl⟩ | ⟨r, a, -, rfl⟩
      · rw [State.drawn_gfx]
        exact gfxOk_drawSprite x y n hg
      · exact hg
    | _ => simp [writtenParts] at hp
  · rw [exec_keeps h hp]
    exact hg

/-! ### The resolution, the display wait and the user registers (R47, R48, R117) -/

theorem exec_resolution (h : exec i s = .next t) (hv : s.cfg.variant = .chip8) : t.hiresFlag = s.hiresFlag := by
  by_cases hp : .resolution ∈ writtenParts i
  · cases i with
    | low | high =>
      cases (onExtended_of_chip8 hv).symm.trans h
      rfl
    | _ => simp [writtenParts] at hp
  · exact exec_keeps h hp

/-- Only a low-resolution draw on a variant that has it begins a display wait. -/
theorem exec_displayWait (h : exec i s = .next t) (hw : s.displayWait = false) (ht : t.displayWait = true) :
    s.cfg.variant.loresDisplayWait = true ∧ t.hires = false := by
  by_cases hp : .displayWait ∈ writtenParts i
  · cases i with
    | drw x y n =>
      have hhires : t.hires = s.hires :=
        hires_congr (exec_cfg h) (exec_keeps h (p := .resolution) (by simp [writtenParts]))
      rw [hhires]
      rw [exec_drw] at h
      rcases s.guarded_cases _ _ _ h with ⟨-, rfl⟩ | ⟨r, a, -, rfl⟩
      · rw [State.drawn_displayWait] at ht
        simpa [hw] using ht
      · cases hw.symm.trans ht
    | _ => simp [writtenParts] at hp
  · cases hw.symm.trans ((exec_keeps h hp : t.displayWait = _).symm.trans ht)

theorem exec_userReg (h : exec i s = .next t) {k : RegIdx} (hk : s.cfg.variant.userRegisterCount ≤ k.val) :
    t.userReg k = s.userReg k := by
  by_cases hp : .userRegs ∈ writtenParts i
  · cases i with
    | storeUser x =>
      cases h
      rw [State.advance_userReg]
      split
      · next hx =>
        rw [userInRange, decide_eq_true_iff] at hx
        have hkx : ¬k ≤ x := fun hle : k.val ≤ x.val => by omega
        rw [State.userReg_setUserRegsUpTo, if_neg hkx]
      · rfl
    | _ => simp [writtenParts] at hp
  · have hsame : Part.userRegs.same s t := exec_keeps h hp
    exact hsame k

theorem exec_faulted (h : exec i s = .next t) (hf : s.fault = none) :
    t.lastOutcome = some .faulted ↔ t.fault ≠ none := by
  rcases exec_cases h with ⟨r, info, rfl⟩ | ⟨hframe, hout⟩
  · exact ⟨fun _ => Option.some_ne_none _, fun _ => rfl⟩
  · have hfault : t.fault = none := (hframe.2 .faultRecord (by simp [faultRecord_not_written])).1.trans hf
    rcases hout with hout | hout <;> simp [hout, hfault]

/-! ### The invariant -/

theorem inv_exec (hs : Inv s) (hf : s.fault = none) (hw : s.displayWait = false) (h : exec i s = .next t) :
    Inv t := by
  have hcfg := exec_cfg h
  have hmem : MemoryKept s t := (exec_memory h).imp_right fun ⟨bs, hlo, hhi, hm⟩ =>
    ⟨s.i.toNat, bs, hlo, hhi, .inl hm⟩
  have hgfx := exec_gfxOk h ⟨hs.framebuffer, hs.screen⟩
  exact {
    params := hcfg ▸ hs.params
    index := hcfg ▸ exec_index hs.params hs.index h
    memory := hcfg ▸ memoryKept_wf hmem hs.memory
    writable := hcfg ▸ memoryKept_writable hmem hs.writable
    framebuffer := hgfx.1
    screen := hcfg ▸ hgfx.2
    resolution := fun hv => (exec_resolution h (hcfg ▸ hv)).trans (hs.resolution (hcfg ▸ hv))
    displayWait := fun ht => hcfg ▸ exec_displayWait h hw ht
    userRegs := fun k hk => (exec_userReg h (hcfg ▸ hk)).trans (hs.userRegs k (hcfg ▸ hk))
    faulted := exec_faulted h hf }

/-- A transition that keeps the parts the invariant speaks of, begins no display wait and reports a fault iff there
is one. -/
theorem inv_of_frame (hs : Inv s)
    (hframe : Frame [.delayTimer, .soundTimer, .keys, .keyWait, .drawFlag, .displayWait, .faultRecord, .outcome,
      .schedule] s t)
    (hm : t.mem = s.mem) (hw : t.displayWait = true → s.displayWait = true)
    (hf : t.lastOutcome = some .faulted ↔ t.fault ≠ none) : Inv t := by
  obtain ⟨hc, hsame⟩ := hframe
  have hi : t.i = s.i := hsame .index (by simp)
  have hg : t.gfx = s.gfx := hsame .framebuffer (by simp)
  have hh : t.hiresFlag = s.hiresFlag := hsame .resolution (by simp)
  have hu : ∀ k, t.userReg k = s.userReg k := hsame .userRegs (by simp)
  constructor
  case params => exact hc ▸ hs.params
  case index => exact hc ▸ hi ▸ hs.index
  case memory => exact hc ▸ hm ▸ hs.memory
  case writable => exact hc ▸ hm ▸ hs.writable
  case framebuffer => exact hg ▸ hs.framebuffer
  case screen => exact hc ▸ hg ▸ hs.screen
  case resolution => exact fun hv => hh.trans (hs.resolution (hc ▸ hv))
  case displayWait => exact fun ht => hc ▸ hires_congr hc hh ▸ hs.displayWait (hw ht)
  case userRegs => exact fun k hk => (hu k).trans (hs.userRegs k (hc ▸ hk))
  case faulted => exact hf

theorem inv_cycle (hs : Inv s) (h : s.cycle = .next t) : Inv t := by
  rcases cycle_cases h with ⟨hf, rfl⟩ | ⟨hf, -, rfl⟩ | ⟨hf, hw, ⟨r, info, rfl⟩ | ⟨i, -, -, hexec⟩⟩
  · exact inv_of_frame hs (s.withLastOutcome_frame _).mono rfl id (by simp [hf])
  · exact inv_of_frame hs (s.withLastOutcome_frame _).mono rfl id (by simp [hf])
  · exact inv_of_frame hs (s.raiseFault_frame r info).mono rfl id (by simp [State.raiseFault])
  · exact inv_exec hs hf hw hexec

theorem inv_withHostEvents (hs : Inv s) (rest : List HostEvent) : Inv (s.withHostEvents rest) :=
  inv_of_frame hs (s.withHostEvents_frame rest).mono rfl id hs.faulted

theorem inv_tick (hs : Inv s) : Inv s.tick := by
  have hframe := s.tick_frame
  refine inv_of_frame hs hframe.mono s.tick_mem (fun ht => ?_) ?_
  · unfold State.tick at ht
    split at ht
    · exact ht
    · cases ht
  · have hout : s.tick.lastOutcome = s.lastOutcome := hframe.2 .outcome (by simp)
    have hrec := hframe.2 .faultRecord (by simp)
    rw [hout, hrec.1]
    exact hs.faulted

theorem inv_keyEvent (hs : Inv s) (k : KeyIdx) (pressed : Bool) : Inv (s.keyEvent k pressed) := by
  have hframe := s.keyEvent_frame k pressed
  have hwait : (s.keyEvent k pressed).displayWait = s.displayWait := hframe.2 .displayWait (by simp)
  have hout : (s.keyEvent k pressed).lastOutcome = s.lastOutcome := hframe.2 .outcome (by simp)
  have hrec := hframe.2 .faultRecord (by simp)
  refine inv_of_frame hs hframe.mono (s.keyEvent_mem k pressed) hwait.symm.trans ?_
  rw [hout, hrec.1]
  exact hs.faulted

theorem inv_displayAck (hs : Inv s) : Inv s.displayAck :=
  inv_of_frame hs (s.withDrawFlag_frame false).mono rfl id hs.faulted

theorem inv_load (hs : Inv s) {rom : List Byte} (h : s.load rom = .next t) : Inv t := by
  obtain ⟨-, -, hfit, rfl⟩ := load_cases h
  have hmem : MemoryKept s ((s.withMem (Memory.placeRom s.cfg s.mem 0x200 rom)).withRomLoaded true) :=
    .inr ⟨0x200, rom, le_rfl, hfit, .inr rfl⟩
  exact { params := hs.params, index := hs.index
          memory := memoryKept_wf (s := s) hmem hs.memory, writable := memoryKept_writable (s := s) hmem hs.writable
          framebuffer := hs.framebuffer, screen := hs.screen, resolution := hs.resolution
          displayWait := hs.displayWait, userRegs := hs.userRegs, faulted := hs.faulted }

/-- Settles O24: each event of the host, and so each step, keeps the invariant. -/
theorem stepKeepsInvariant : Obligations.StepKeepsInvariant := by
  intro s t hs h
  refine step_induction (P := fun s t => Inv s → Inv t) ?cycleNil ?cycle ?tick ?key ?ack ?load h hs
  case cycleNil => exact fun _ _ _ h hs => inv_cycle hs h
  case cycle => exact fun _ rest _ h hs => inv_cycle (inv_withHostEvents hs rest) h
  case tick => exact fun _ rest hs => inv_tick (inv_withHostEvents hs rest)
  case key => exact fun _ rest k pressed hs => inv_keyEvent (inv_withHostEvents hs rest) k pressed
  case ack => exact fun _ rest hs => inv_displayAck (inv_withHostEvents hs rest)
  case load => exact fun _ rest _ _ h hs => inv_load (inv_withHostEvents hs rest) h

/-! ### The key wait (R46, R180, R181) -/

/-- The fetched opcode depends on the parameters, `pc` and memory only. -/
theorem fetch_congr (hc : t.cfg = s.cfg) (hpc : t.pc = s.pc) (hm : t.mem = s.mem) : t.fetch = s.fetch := by
  unfold State.fetch
  rw [hpc, State.readByte_congr hc hm, State.readByte_congr hc hm]

/-- A transition that leaves the wait's opcode alone, arms no idle wait and leaves an outcome. -/
theorem keyWaitInv_of_kept (hs : KeyWaitInv s) (hc : t.cfg = s.cfg) (hpc : t.pc = s.pc) (hm : t.mem = s.mem)
    (hk : s.keyWait = .idle → t.keyWait = .idle) (ho : s.lastOutcome ≠ none → t.lastOutcome ≠ none) :
    KeyWaitInv t := by
  intro hne
  obtain ⟨hout, x, hx⟩ := hs fun hidle => hne (hk hidle)
  refine ⟨ho hout, x, ?_⟩
  rw [fetch_congr hc hpc hm, hc, hx]

/-- A cycle that runs no instruction. -/
theorem keyWaitInv_of_frame (hs : KeyWaitInv s) (hframe : Frame [.faultRecord, .outcome] s t) (hm : t.mem = s.mem)
    (ho : t.lastOutcome ≠ none) : KeyWaitInv t :=
  keyWaitInv_of_kept hs hframe.1 (hframe.2 .pc (by simp)) hm (hframe.2 .keyWait (by simp)).trans fun _ => ho

/-- `FX0A` fetched at `pc`: a wait that is not over is armed at the same opcode. -/
theorem keyWaitInv_execLdVxK {x : RegIdx} (hx : decodeWord s.cfg.variant s.fetch = .ok (.ldVxK x))
    (h : execLdVxK x s = .next t) : KeyWaitInv t := by
  unfold execLdVxK at h
  split at h <;> cases h
  · exact fun _ => ⟨Option.some_ne_none _, x, hx⟩
  · exact fun _ => ⟨Option.some_ne_none _, x, hx⟩
  · exact fun hne => absurd rfl hne

theorem keyWaitInv_cycle (hs : KeyWaitInv s) (h : s.cycle = .next t) : KeyWaitInv t := by
  rcases cycle_cases h with ⟨-, rfl⟩ | ⟨-, -, rfl⟩ | ⟨-, -, ⟨r, info, rfl⟩ | ⟨i, -, hd, hexec⟩⟩
  · exact keyWaitInv_of_frame hs (s.withLastOutcome_frame _).mono rfl (Option.some_ne_none _)
  · exact keyWaitInv_of_frame hs (s.withLastOutcome_frame _).mono rfl (Option.some_ne_none _)
  · exact keyWaitInv_of_frame hs (s.raiseFault_frame r info) rfl (Option.some_ne_none _)
  · by_cases hi : ∃ x, i = .ldVxK x
    · obtain ⟨x, rfl⟩ := hi
      exact keyWaitInv_execLdVxK hd hexec
    · -- another instruction runs only while the wait is idle, and keeps it so
      have hnot : .keyWait ∉ writtenParts i := by
        cases i <;> simp_all [writtenParts]
      have hidle : s.keyWait = .idle := by
        by_contra hne
        obtain ⟨-, x, hx⟩ := hs hne
        exact hi ⟨x, Except.ok.inj (hd.symm.trans hx)⟩
      exact fun hne => absurd ((exec_keeps hexec hnot).trans hidle) hne

/-- Settles O25: only `FX0A` arms the wait, and while it waits `pc` and memory stand still. -/
theorem stepKeepsKeyWait : Obligations.StepKeepsKeyWait := by
  intro s t hs h
  refine step_induction (P := fun s t => KeyWaitInv s → KeyWaitInv t) ?cycleNil ?cycle ?tick ?key ?ack ?load h hs
  case cycleNil => exact fun _ _ _ h hs => keyWaitInv_cycle hs h
  case cycle => exact fun s rest _ h hs => keyWaitInv_cycle (s := s.withHostEvents rest) hs h
  case tick =>
    intro s rest hs
    have hframe := (s.withHostEvents rest).tick_frame
    refine keyWaitInv_of_kept hs hframe.1 (hframe.2 .pc (by simp)) (State.tick_mem _) (fun hidle => ?_) fun ho => ?_
    · exact (hframe.2 .keyWait (by simp)).trans hidle
    · rwa [hframe.2 .outcome (by simp)]
  case key =>
    intro s rest k pressed hs
    have hframe := (s.withHostEvents rest).keyEvent_frame k pressed
    refine keyWaitInv_of_kept hs hframe.1 (hframe.2 .pc (by simp)) (State.keyEvent_mem _ k pressed)
      (fun hidle => ?_) fun ho => ?_
    · unfold State.keyEvent
      split
      · exact hidle
      · show s.keyWait.afterKey k _ pressed = .idle
        rw [hidle]; rfl
    · rwa [hframe.2 .outcome (by simp)]
  case ack => exact fun _ _ hs => keyWaitInv_of_kept hs rfl rfl rfl id id
  case load =>
    -- a load comes before the first cycle, when the wait is idle
    intro s rest rom t h hs
    obtain ⟨hnone, -, -, rfl⟩ := load_cases h
    exact fun hne => absurd hnone (hs hne).1

/-! ### Construction (R53) -/

theorem inv_construct {c : Config} (hc : c.Wf) : Inv (State.construct c) where
  params := hc
  index := Nat.lt_of_lt_of_le (Nat.succ_pos 4095) (cap_bounds c).1
  memory := Memory.wf_nil c
  writable := fun _ hp => absurd hp List.not_mem_nil
  framebuffer := Gfx.clear_wf
  screen := fun _ hp => absurd hp List.not_mem_nil
  resolution := fun _ => rfl
  displayWait := nofun
  userRegs := fun k _ => Vector.getElem_replicate k.isLt
  faulted := by simp [State.construct]

theorem keyWaitInv_construct (c : Config) : KeyWaitInv (State.construct c) := fun hne => absurd rfl hne

/-- Settles O26: nothing is listed, set or recorded at construction, and `State.reset` is a
construction from the table. -/
theorem constructionMeetsInvariants : Obligations.ConstructionMeetsInvariants := by
  have htable : Config.table.Wf := ⟨rfl, rfl, by decide, by decide⟩
  exact ⟨fun c hc => ⟨inv_construct hc, keyWaitInv_construct c⟩, inv_construct htable, keyWaitInv_construct _⟩

/-- Nothing is listed at construction, so every byte is the reset byte. -/
theorem readByte_construct (c : Config) (a : Nat) : (State.construct c).readByte a = c.resetByte a := rfl

section
variable {c : Config} {a : Nat}

theorem resetByte_low (h : a < 80) : c.resetByte a = c.fontLo.getD a 0 := if_pos h

/-- Outside the two fonts memory is 0 (R53). -/
theorem resetByte_zero (h : 80 ≤ a)
    (hhi : c.variant = .chip8 ∨ a < c.fontHiBase.toNat ∨ c.fontHiBase.toNat + 100 ≤ a) : c.resetByte a = 0 := by
  unfold Config.resetByte
  rw [if_neg (by omega), if_neg]
  rw [isExtended_iff]
  rintro ⟨hv, hlo, hlt⟩
  rcases hhi with hhi | hhi | hhi
  · exact hv hhi
  · omega
  · omega

theorem resetByte_high {k : Nat} (hc : c.Wf) (hv : c.variant ≠ .chip8) (hk : k < 100) :
    c.resetByte (c.fontHiBase.toNat + k) = c.fontHi.getD k 0 := by
  obtain ⟨-, -, hbase, -⟩ := hc
  unfold Config.resetByte
  rw [if_neg (by omega), if_pos ⟨(isExtended_iff _).mpr hv, by omega, by omega⟩, Nat.add_sub_cancel_left]

end

/-- Settles O27: memory reads as `Config.resetByte`, the two fonts and 0 elsewhere. -/
theorem constructionValues : Obligations.ConstructionValues := by
  intro c
  refine ⟨rfl, fun r => Vector.getElem_replicate r.isLt, rfl, rfl, rfl, fun k => Vector.getElem_replicate k.isLt,
    rfl, rfl, fun _ _ => rfl, fun k => Vector.getElem_replicate k.isLt, rfl, rfl, rfl, rfl,
    fun k => Vector.getElem_replicate k.isLt, rfl, rfl, rfl, ?_⟩
  simp only [readByte_construct]
  refine ⟨fun a ha => resetByte_low ha, fun hv a ha => resetByte_zero ha (.inl hv), fun hc hv => ⟨?_, ?_⟩, ?_⟩
  · exact fun k hk => resetByte_high hc hv hk
  · exact fun a ha hlt => resetByte_zero ha (.inr (.inl hlt))
  · rintro ⟨-, -, hbase, -⟩ a ha
    exact resetByte_zero (by omega) (.inr (.inr ha))

end Sys2Proof.Machine
end

section
/-! PROOFS. Who writes what (spec/10_state.md, spec/40_cycle.md R114 to R117, spec/43_display.md R204), and how `pc`
moves. -/

-- One theorem after another: each that is elaborated beside the others takes a thread, and the check's memory bound
-- holds few.
set_option Elab.async false

namespace Sys2Proof.Machine

variable {s t u : State} {i : Instr}

/-! ### How `pc` moves (R114, R115) -/

section
variable (s : State)

@[simp] theorem State.setReg_pc (r : RegIdx) (b : Byte) : (s.setReg r b).pc = s.pc := s.withV_pc _

@[simp] theorem State.setFlag_pc (b : Byte) : (s.setFlag b).pc = s.pc := s.setReg_pc flagReg b

@[simp] theorem State.setRegFlag_pc (r : RegIdx) (b c : Byte) : (s.setRegFlag r b c).pc = s.pc := by
  rw [State.setRegFlag, State.setFlag_pc, State.setReg_pc]

@[simp] theorem State.setRegsUpTo_pc (x : RegIdx) (f : RegIdx → Byte) : (s.setRegsUpTo x f).pc = s.pc := s.withV_pc _

@[simp] theorem State.setUserRegsUpTo_pc (x : RegIdx) (f : RegIdx → Byte) : (s.setUserRegsUpTo x f).pc = s.pc :=
  s.withUserRegs_pc _

@[simp] theorem State.writeBytes_pc (a : Nat) (bs : List Byte) : (s.writeBytes a bs).pc = s.pc := s.withMem_pc _

@[simp] theorem State.scrollBy_pc (m : Nat × Nat → Option (Nat × Nat)) : (s.scrollBy m).pc = s.pc := s.present_pc _

@[simp] theorem State.selectResolution_pc (b : Bool) : (s.selectResolution b).pc = s.pc := by
  rw [State.selectResolution, State.present_pc, State.withHiresFlag_pc]

@[simp] theorem State.logicReset_pc : s.logicReset.pc = s.pc := s.logicReset_frame.2 .pc (by simp)

@[simp] theorem State.addressFlag_pc (o : Bool) : (s.addressFlag o).pc = s.pc :=
  (s.addressFlag_frame o).2 .pc (by simp)

end

/-- An effect that keeps `pc`, then `Delta(2)`. -/
theorem stepped_of_next (h : (.next (u.advance 2) : Result) = .next t) (hu : u.pc = s.pc := by simp) :
    Stepped s t 2 := by
  cases h
  exact stepped_of_advance 2 hu

theorem stepped_of_skip {b : Bool} (h : (.next (s.skipIf b) : Result) = .next t) :
    Stepped s t 2 ∨ Stepped s t 4 := by
  cases h
  cases b
  · exact .inl (stepped_of_advance 2 rfl)
  · exact .inr (stepped_of_advance 4 rfl)

theorem raiseFault_faulted (r : Fault) (info : FaultInfo) :
    (s.raiseFault r info).lastOutcome = some .faulted := rfl

theorem eq_of_guarded {failed : Option (Fault × Nat)} (h : s.guarded failed u = .next t)
    (hne : t.lastOutcome ≠ some .faulted) : t = u := by
  rcases s.guarded_cases _ _ _ h with ⟨-, rfl⟩ | ⟨r, a, -, rfl⟩
  · rfl
  · exact absurd (raiseFault_faulted _ _) hne

theorem stepped_of_onExtended (h : s.onExtended u = .next t) (hu : u.pc = s.pc := by simp) : Stepped s t 2 := by
  refine stepped_of_next h ?_
  split
  · exact hu
  · rfl

theorem stepped_of_keySkip {x : RegIdx} {b : Bool} (h : s.keySkip x b = .next t)
    (hne : t.lastOutcome ≠ some .faulted) : Stepped s t 2 ∨ Stepped s t 4 := by
  unfold State.keySkip at h
  split at h
  · exact stepped_of_skip h
  · cases h
    exact absurd (raiseFault_faulted _ _) hne

/-- Settles O13: each meaning's last operation on `pc`. -/
theorem pcMovesByDelta : Obligations.PcMovesByDelta := by
  intro i s t h hne
  cases i with
  | ret =>
    simp only [exec, execRet] at h
    split at h <;> cases h
    · exact absurd (raiseFault_faulted _ _) hne
    · rfl
  | call nnn =>
    simp only [exec, execCall] at h
    split at h <;> cases h
    · rfl
    · exact absurd (raiseFault_faulted _ _) hne
  | jp | jpOffset => cases h; rfl
  | seImm | sneImm | seReg | sneReg => exact stepped_of_skip h
  | skp | sknp => exact stepped_of_keySkip h hne
  | ldVxK x =>
    simp only [exec, execLdVxK] at h
    split at h
    · cases h
      exact .inl ⟨rfl, rfl, rfl⟩
    · next harmed =>
      cases h
      exact .inl ⟨rfl, rfl, harmed⟩
    · cases h
      exact .inr ⟨stepped_of_advance 2 rfl, rfl⟩
  | scd | scu | scr | scl | low | high => exact stepped_of_onExtended h
  | drw x y n =>
    rw [exec_drw] at h
    exact eq_of_guarded h hne ▸ s.drawn_stepped x y n
  | ldHf x =>
    simp only [exec, execLdHf] at h
    split at h
    · exact stepped_of_next h
    · cases h
      exact absurd (raiseFault_faulted _ _) hne
  | ldB | storeRegs | loadRegs => exact stepped_of_next (congrArg _ (eq_of_guarded h hne).symm)
  | storeUser | loadUser =>
    refine stepped_of_next h ?_
    split <;> simp
  | _ => exact stepped_of_next h

/-! ### Which instructions write a part -/

theorem resolution_written (h : .resolution ∈ writtenParts i) : i = .low ∨ i = .high := by
  cases i <;> simp_all [writtenParts]

theorem displayWait_written (h : .displayWait ∈ writtenParts i) : ∃ x y n, i = .drw x y n := by
  cases i <;> simp_all [writtenParts]

theorem stack_written (h : .stack ∈ writtenParts i) : i = .ret ∨ ∃ nnn, i = .call nnn := by
  cases i <;> simp_all [writtenParts]

theorem userRegs_written (h : .userRegs ∈ writtenParts i) : ∃ x, i = .storeUser x := by
  cases i <;> simp_all [writtenParts]

theorem delayTimer_written (h : .delayTimer ∈ writtenParts i) : ∃ x, i = .ldDtVx x := by
  cases i <;> simp_all [writtenParts]

theorem soundTimer_written (h : .soundTimer ∈ writtenParts i) : ∃ x, i = .ldStVx x := by
  cases i <;> simp_all [writtenParts]

theorem keyWait_written (h : .keyWait ∈ writtenParts i) : ∃ x, i = .ldVxK x := by
  cases i <;> simp_all [writtenParts]

theorem memory_written (h : .memory ∈ writtenParts i) : ∃ x, i = .ldB x ∨ i = .storeRegs x := by
  cases i <;> simp_all [writtenParts]

/-! ### The display state (R204, R117) -/

theorem drawFlag_of_onExtended (h : s.onExtended u = .next t) (hu : u.drawFlag = true)
    (hs : s.drawFlag = true) : t.drawFlag = true := by
  cases h
  show State.drawFlag (ite _ _ _) = true
  split
  · exact hu
  · exact hs

/-- No instruction clears `draw_flag`: what writes it presents a framebuffer. -/
theorem exec_drawFlag (h : exec i s = .next t) (hs : s.drawFlag = true) : t.drawFlag = true := by
  by_cases hp : .drawFlag ∈ writtenParts i
  · cases i with
    | cls => cases h; rfl
    | scd | scu | scr | scl | low | high => exact drawFlag_of_onExtended h rfl hs
    | drw x y n =>
      rw [exec_drw] at h
      rcases s.guarded_cases _ _ _ h with ⟨-, rfl⟩ | ⟨r, a, -, rfl⟩
      · exact s.drawn_drawFlag x y n
      · exact hs
    | _ => simp [writtenParts] at hp
  · exact (exec_keeps h hp : t.drawFlag = _).trans hs

/-- No instruction ends a display wait. -/
theorem exec_keeps_displayWait (h : exec i s = .next t) (hs : s.displayWait = true) : t.displayWait = true := by
  by_cases hp : .displayWait ∈ writtenParts i
  · cases i with
    | drw x y n =>
      rw [exec_drw] at h
      rcases s.guarded_cases _ _ _ h with ⟨-, rfl⟩ | ⟨r, a, -, rfl⟩
      · rw [State.drawn_displayWait, hs, Bool.true_or]
      · exact hs
    | _ => simp [writtenParts] at hp
  · exact (exec_keeps h hp : t.displayWait = _).trans hs

/-- Settles O21: what changed is a written part. -/
theorem displayWriters : Obligations.DisplayWriters := by
  intro i s t h
  refine ⟨fun hne => resolution_written (written_of_not_same h hne),
    fun hne => ⟨displayWait_written (written_of_not_same h hne), ?_⟩, exec_drawFlag h, fun hne => ?_⟩
  · cases hw : s.displayWait with
    | false => simpa [hw] using hne
    | true => exact exec_keeps_displayWait h hw
  · have hp : .framebuffer ∈ writtenParts i ∨ .drawFlag ∈ writtenParts i :=
      hne.imp (written_of_not_same h ·) (written_of_not_same h ·)
    cases i with
    | cls | drw | scd | scu | scr | scl | low | high => trivial
    | _ => simp [writtenParts] at hp

/-! ### The rest of the state -/

theorem exec_userRegs (h : exec i s = .next t) (hp : .userRegs ∉ writtenParts i) : t.userRegs = s.userRegs := by
  have hsame : Part.userRegs.same s t := exec_keeps h hp
  exact Vector.ext fun k hk => hsame ⟨k, hk⟩

/-- On SCHIP a transfer keeps `I` (R232). -/
theorem index_of_transfer {x : RegIdx} {failed : Option (Fault × Nat)} (hv : s.cfg.variant = .schip)
    (h : s.guarded failed u = .next t) (hu : u.i = s.afterTransfer x) : t.i = s.i := by
  rcases s.guarded_cases _ _ _ h with ⟨-, rfl⟩ | ⟨r, a, -, rfl⟩
  · exact hu.trans (if_pos hv)
  · rfl

/-- Settles O22: what changed is a written part. -/
theorem stateWriters : Obligations.StateWriters := by
  intro i s t h
  have hkeys : .keys ∉ writtenParts i := by cases i <;> simp [writtenParts]
  have hrom : .romLoaded ∉ writtenParts i := by cases i <;> simp [writtenParts]
  have hevents : .schedule ∉ writtenParts i := by cases i <;> simp [writtenParts]
  refine ⟨exec_keeps h hkeys, exec_keeps h hrom, exec_keeps h hevents, fun hne => stack_written ?_,
    fun hne => userRegs_written (by_contra fun hp => hne (exec_userRegs h hp)),
    fun hne => delayTimer_written (written_of_not_same h hne),
    fun hne => soundTimer_written (written_of_not_same h hne),
    fun hne => keyWait_written (written_of_not_same h hne), fun hne => ?_,
    fun ⟨a, hne⟩ => memory_written (written_of_not_same h fun hs => hne (hs a))⟩
  · exact written_of_not_same h fun hs => hne.elim (· hs.1) (· hs.2)
  · have hp : .index ∈ writtenParts i := written_of_not_same h hne
    cases i with
    | ldI | addI | ldF | ldHf => trivial
    | storeRegs | loadRegs => exact fun hv => hne (index_of_transfer hv h rfl)
    | _ => simp [writtenParts] at hp

/-! ### VF (R31) -/

/-- A register that a write to `x` changes is `x`. -/
theorem eq_of_setReg_ne {x q : RegIdx} {b : Byte} (h : (.next ((s.setReg x b).advance 2) : Result) = .next t)
    (hne : t.reg q ≠ s.reg q) : x = q := by
  cases h
  by_contra hx
  exact hne (by rw [State.advance_reg, State.reg_setReg, if_neg (Ne.symm hx)])

theorem eq_15_of_le {x : RegIdx} (h : 15 ≤ x) : x = 15 := le_antisymm (Fin.le_last x) h

theorem logic_vf {x : RegIdx} {b : Byte} (h : (.next ((s.setReg x b).logicReset.advance 2) : Result) = .next t)
    (hne : t.reg 15 ≠ s.reg 15) : s.cfg.variant = .chip8 ∨ x = 15 := by
  refine or_iff_not_imp_left.mpr fun hv => ?_
  have hreset : (s.setReg x b).logicReset = s.setReg x b := if_neg hv
  rw [hreset] at h
  exact eq_of_setReg_ne h hne

/-- Settles O23: among the writers of registers, the ones that write no flag change `VF` only as their destination. -/
theorem vfWriters : Obligations.VfWriters := by
  intro i s t h hne
  have hp : .regs ∈ writtenParts i := written_of_not_same h fun hs => hne (hs 15)
  cases i with
  | addReg | sub | subn | shr | shl | drw | addI => trivial
  | orReg | andReg | xorReg => exact logic_vf h hne
  | ldImm | addImm | ldReg | ldVxDt => exact eq_of_setReg_ne h hne
  | rnd x nn =>
    cases h
    exact eq_of_setReg_ne (s := s) rfl hne
  | ldVxK x =>
    simp only [exec, execLdVxK] at h
    split at h <;> cases h
    · exact absurd rfl hne
    · exact absurd rfl hne
    · exact eq_of_setReg_ne (s := s) rfl hne
  | loadRegs x =>
    rcases s.guarded_cases _ _ _ h with ⟨-, rfl⟩ | ⟨r, a, -, rfl⟩
    · by_contra hx
      refine hne ?_
      rw [State.advance_reg, State.withI_reg, State.reg_setRegsUpTo, if_neg fun hle => hx (eq_15_of_le hle)]
    · exact absurd rfl hne
  | loadUser x =>
    cases h
    by_contra hx
    refine hne ?_
    rw [State.advance_reg]
    split
    · rw [State.reg_setRegsUpTo, if_neg fun hle => hx (eq_15_of_le hle)]
    · rfl
  | _ => simp [writtenParts] at hp

end Sys2Proof.Machine
end

section
/-! PROOFS. Arithmetic and logic, and the timers (spec/41_alu.md, spec/45_timers.md): one lemma for a result and a flag,
and the meanings read off it. -/

-- One theorem after another: each that is elaborated beside the others takes a thread, and the check's memory bound
-- holds few.
set_option Elab.async false

namespace Sys2Proof.Machine

/-- The word of an instruction of the form `F X Y N`, as the number `w` (R91). -/
theorem hasWord_of_packXYN {i : Instr} {w : Nat} (f : Nibble) (x y : Fin 16) (n : Nibble)
    (he : encodeWord i = packXYN f x y n)
    (hw : f.toNat * 0x1000 + x.val * 0x100 + y.val * 0x10 + n.toNat = w) : HasWord i w := by
  unfold HasWord
  rw [he, packXYN_toNat, hw]

/-- The words of family 8. -/
theorem hasWord_family8 {i : Instr} (x y : RegIdx) (n : Nibble) (he : encodeWord i = packXYN 0x8 x y n) :
    HasWord i (0x8000 + n.toNat + 0x100 * x.val + 0x10 * y.val) :=
  hasWord_of_packXYN 0x8 x y n he (by bv_omega)

/-- The words of family F. -/
theorem hasWord_familyF {i : Instr} (x : RegIdx) (nn : Byte) (he : encodeWord i = packXNN 0xF x nn) :
    HasWord i (0xF000 + nn.toNat + 0x100 * x.val) :=
  hasWord_of_packXNN 0xF x nn he (by bv_omega)

/-- `VF` is `V[15]` (R31). -/
theorem State.reg_15_setFlag (s : State) (b : Byte) : (s.setFlag b).reg 15 = b :=
  (s.reg_setFlag flagReg b).trans (if_pos rfl)

/-! ### Loads (R133, R135) -/

/-- Settles O28: each is one register write. -/
theorem loadImmediateAndCopy : Obligations.LoadImmediateAndCopy := by
  intro s x y nn
  refine ⟨hasWord_of_packXNN 0x6 x nn rfl (by bv_omega), ?_, hasWord_family8 x y 0x0 rfl, ?_⟩
  · exact completes_of_setReg (value := (· = nn)) rfl rfl
  · exact completes_of_setReg (value := (· = s.reg y)) rfl rfl

/-! ### Logic (R132, R136 to R138) -/

theorem logicReset_of_chip8 {s : State} (hv : s.cfg.variant = .chip8) : s.logicReset = s.setFlag 0 := if_pos hv

theorem logicReset_of_ne_chip8 {s : State} (hv : s.cfg.variant ≠ .chip8) : s.logicReset = s := if_neg hv

/-- A logic operation: the result, then on CHIP8 the reset of `VF`, which outlives the result (R131, R132). -/
theorem completes_of_logic {i : Instr} {s : State} {x : RegIdx} {b : Byte}
    (he : exec i s = .next ((s.setReg x b).logicReset.advance 2)) {bits : Byte → Prop} (hb : bits b) :
    Completes i s [.regs] (fun t =>
      (s.cfg.variant = .chip8 → t.reg 15 = 0) ∧ (s.cfg.variant ≠ .chip8 ∨ x ≠ 15 → bits (t.reg x)) ∧
      KeepsRegsBut s t (if s.cfg.variant = .chip8 then [x, 15] else [x]) ∧ Stepped s t 2) := by
  have hframe : Frame [.regs] s (s.setReg x b).logicReset :=
    (s.setReg_frame x b).trans (State.logicReset_frame _)
  have hstepped : Stepped s ((s.setReg x b).logicReset.advance 2) 2 := stepped_of_advance 2 (by simp)
  by_cases hv : s.cfg.variant = .chip8
  · have hreset : (s.setReg x b).logicReset = (s.setReg x b).setFlag 0 := logicReset_of_chip8 hv
    refine completes_of_advance he hframe ⟨fun _ => ?_, fun hx => ?_, fun r hr => ?_, hstepped⟩
    · rw [State.advance_reg, hreset, State.reg_15_setFlag]
    · have hx : x ≠ flagReg := hx.resolve_left (absurd hv)
      rwa [State.advance_reg, hreset, State.reg_setFlag, if_neg hx, State.reg_setReg, if_pos rfl]
    · obtain ⟨hrx, hrf⟩ : r ≠ x ∧ r ≠ flagReg := by simpa [hv, flagReg] using hr
      rw [State.advance_reg, hreset, State.reg_setFlag, if_neg hrf, State.reg_setReg, if_neg hrx]
  · have hreset : (s.setReg x b).logicReset = s.setReg x b := logicReset_of_ne_chip8 hv
    refine completes_of_advance he hframe ⟨(absurd · hv), fun _ => ?_, fun r hr => ?_, hstepped⟩
    · rwa [State.advance_reg, hreset, State.reg_setReg, if_pos rfl]
    · have hrx : r ≠ x := by simpa [hv] using hr
      rw [State.advance_reg, hreset, State.reg_setReg, if_neg hrx]

/-- Settles O30: `completes_of_logic` for each operation, bit by bit. -/
theorem logicOperations : Obligations.LogicOperations := by
  intro s x y
  refine ⟨hasWord_family8 x y 0x1 rfl, ?_, hasWord_family8 x y 0x2 rfl, ?_, hasWord_family8 x y 0x3 rfl, ?_⟩
  · exact completes_of_logic
      (bits := fun b => ∀ k, k < 8 → b.getLsbD k = ((s.reg x).getLsbD k || (s.reg y).getLsbD k)) rfl
      fun _ _ => BitVec.getLsbD_or
  · exact completes_of_logic
      (bits := fun b => ∀ k, k < 8 → b.getLsbD k = ((s.reg x).getLsbD k && (s.reg y).getLsbD k)) rfl
      fun _ _ => BitVec.getLsbD_and
  · exact completes_of_logic
      (bits := fun b => ∀ k, k < 8 → b.getLsbD k = ((s.reg x).getLsbD k ^^ (s.reg y).getLsbD k)) rfl
      fun _ _ => BitVec.getLsbD_xor

/-! ### A result and a flag (R131, R139 to R143) -/

/-- An instruction that writes a result and then `VF`: the result unless `X` is 15, the flag in any case. -/
theorem completes_of_setRegFlag {i : Instr} {s : State} {x : RegIdx} {result flag : Byte}
    (he : exec i s = .next ((s.setRegFlag x result flag).advance 2)) {value holds : Byte → Prop}
    (hresult : value result) (hflag : holds flag) :
    Completes i s [.regs] (fun t =>
      (x ≠ 15 → value (t.reg x)) ∧ holds (t.reg 15) ∧ KeepsRegsBut s t [x, 15] ∧ Stepped s t 2) := by
  refine completes_of_advance he (s.setRegFlag_frame x result flag)
    ⟨fun hx => ?_, ?_, fun r hr => ?_, stepped_of_advance 2 (by simp)⟩
  · have hx : x ≠ flagReg := hx
    rwa [State.advance_reg, State.reg_setRegFlag, if_neg hx, if_pos rfl]
  · rwa [State.advance_reg, State.setRegFlag, State.reg_15_setFlag]
  · obtain ⟨hrx, hrf⟩ : r ≠ x ∧ r ≠ flagReg := by simpa [flagReg] using hr
    rw [State.advance_reg, State.reg_setRegFlag, if_neg hrf, if_neg hrx]

theorem flagByte_decide (c : Prop) [Decidable c] : flagByte (decide c) = if c then 1 else 0 := by
  simp only [flagByte, decide_eq_true_eq]

/-- Settles O31: a result and a flag. -/
theorem addRegisterCarries : Obligations.AddRegisterCarries := by
  intro s x y
  refine ⟨hasWord_family8 x y 0x4 rfl, ?_⟩
  exact completes_of_setRegFlag (value := fun b => b.toNat = ((s.reg x).toNat + (s.reg y).toNat) % 256)
    (holds := (· = if (s.reg x).toNat + (s.reg y).toNat > 255 then 1 else 0)) rfl
    (BitVec.toNat_add _ _) (flagByte_decide _)

/-- A byte difference, as the exact difference modulo 256. -/
theorem byte_sub_toNat (a b : Byte) : ((a - b).toNat : Int) = (a.toNat - b.toNat : Int) % 256 := by
  have := a.isLt
  have := b.isLt
  rw [BitVec.toNat_sub]
  omega

/-- Settles O32: a result and a flag, with the operands in either order. -/
theorem subtractsBorrow : Obligations.SubtractsBorrow := by
  intro s x y
  refine ⟨hasWord_family8 x y 0x5 rfl, ?_, hasWord_family8 x y 0x7 rfl, ?_⟩
  · exact completes_of_setRegFlag
      (value := fun b => (b.toNat : Int) = ((s.reg x).toNat - (s.reg y).toNat : Int) % 256)
      (holds := (· = if (s.reg x).toNat ≥ (s.reg y).toNat then 1 else 0)) rfl
      (byte_sub_toNat _ _) (flagByte_decide _)
  · exact completes_of_setRegFlag
      (value := fun b => (b.toNat : Int) = ((s.reg y).toNat - (s.reg x).toNat : Int) % 256)
      (holds := (· = if (s.reg y).toNat ≥ (s.reg x).toNat then 1 else 0)) rfl
      (byte_sub_toNat _ _) (flagByte_decide _)

theorem shiftSource_toNat (s : State) (x y : RegIdx) :
    (s.shiftSource x y).toNat = if s.cfg.variant = .schip then (s.reg x).toNat else (s.reg y).toNat :=
  apply_ite ..

theorem shiftRight_one_toNat (b : Byte) : (b >>> 1).toNat = b.toNat / 2 := by
  rw [BitVec.toNat_ushiftRight, Nat.shiftRight_eq_div_pow, pow_one]

theorem shiftLeft_one_toNat (b : Byte) : (b <<< 1).toNat = b.toNat * 2 % 256 := by
  rw [BitVec.toNat_shiftLeft, Nat.shiftLeft_eq, pow_one]

theorem shiftRightFlag_toNat (b : Byte) : (shiftRightFlag b).toNat = b.toNat % 2 := by
  rw [shiftRightFlag, BitVec.toNat_and]
  exact Nat.and_one_is_mod _

theorem shiftLeftFlag_toNat (b : Byte) : (shiftLeftFlag b).toNat = b.toNat / 128 := by
  rw [shiftLeftFlag, BitVec.toNat_ushiftRight, Nat.shiftRight_eq_div_pow]

/-- Settles O33: a result and a flag, both of the selected source. -/
theorem shiftsSelectSource : Obligations.ShiftsSelectSource := by
  intro s x y
  simp only [← shiftSource_toNat]
  refine ⟨hasWord_family8 x y 0x6 rfl, ?_, hasWord_family8 x y 0xE rfl, ?_⟩
  · exact completes_of_setRegFlag (value := fun b => b.toNat = (s.shiftSource x y).toNat / 2)
      (holds := fun b => b.toNat = (s.shiftSource x y).toNat % 2) rfl
      (shiftRight_one_toNat _) (shiftRightFlag_toNat _)
  · exact completes_of_setRegFlag (value := fun b => b.toNat = (s.shiftSource x y).toNat * 2 % 256)
      (holds := fun b => b.toNat = (s.shiftSource x y).toNat / 128) rfl
      (shiftLeft_one_toNat _) (shiftLeftFlag_toNat _)

/-! ### The random byte (R144) -/

/-- Settles O34: a register write of the masked draw, then the draw is used up. -/
theorem randomIsMasked : Obligations.RandomIsMasked := by
  intro s x nn
  refine ⟨hasWord_of_packXNN 0xC x nn rfl (by bv_omega), ?_⟩
  have hframe : Frame [.regs, .draws] s ((s.setReg x (s.randomByte &&& nn)).withRngDraws (s.rngDraws + 1)) :=
    (s.setReg_frame x _).trans (State.withRngDraws_frame _ _)
  refine completes_of_advance rfl hframe ⟨fun k _ => ?_, rfl, ?_, stepped_of_advance 2 rfl⟩
  · rw [State.advance_reg, State.withRngDraws_reg, State.reg_setReg, if_pos rfl, BitVec.getLsbD_and]
    rfl
  · exact keepsRegsBut_setReg_advance s x (s.randomByte &&& nn) 2

/-! ### Timers (R250 to R252) -/

/-- Settles O57: each is one write. -/
theorem timerInstructions : Obligations.TimerInstructions := by
  intro s x
  refine ⟨hasWord_familyF x 0x07 rfl, ?_, hasWord_familyF x 0x15 rfl, ?_, hasWord_familyF x 0x18 rfl, ?_⟩
  · exact completes_of_setReg (value := (· = s.dt)) rfl rfl
  · exact completes_of_advance rfl (s.withDt_frame (s.reg x)) ⟨rfl, stepped_of_advance 2 rfl⟩
  · exact completes_of_advance rfl (s.withSt_frame (s.reg x)) ⟨rfl, stepped_of_advance 2 rfl⟩

end Sys2Proof.Machine
end

section
/-! PROOFS. Control flow (spec/42_control_flow.md sections 2 and 3): jumps, calls and returns, register and key skips,
and the entries above the stack pointer. -/

-- One theorem after another: each that is elaborated beside the others takes a thread, and the check's memory bound
-- holds few.
set_option Elab.async false

namespace Sys2Proof.Machine

/-- The word of an instruction of the form `F NNN`, as the number `w` (R91). -/
theorem hasWord_of_packNNN {i : Instr} {w : Nat} (f : Nibble) (nnn : Addr12) (he : encodeWord i = packNNN f nnn)
    (hw : f.toNat * 0x1000 + nnn.toNat = w) : HasWord i w := by
  unfold HasWord
  rw [he, packNNN_toNat, hw]

/-- `Jump(t)` after any effect (R114). -/
theorem jumpedTo_jump (s : State) (target : Word) : JumpedTo (s.jump target) target.toNat := ⟨rfl, rfl⟩

theorem jumpedTo_zext16 (s : State) (nnn : Addr12) : JumpedTo (s.jump (zext16 nnn)) nnn.toNat :=
  ⟨zext16_toNat nnn, rfl⟩

theorem addr12_setWidth_toNat (nnn : Addr12) : (nnn.setWidth 17).toNat = nnn.toNat := by
  rw [BitVec.toNat_setWidth]
  omega

/-! ### Jumps (R160, R165, R166) -/

/-- A jump to its own address. -/
theorem State.jump_self_frame (s : State) : Frame [.outcome] s (s.jump s.pc) :=
  s.withLastOutcome_frame (some .stepped)

/-- Settles O35: the target below 0x200 is the fetch gate of `cycleGates`. -/
theorem jumpGoesToTarget : Obligations.JumpGoesToTarget := by
  intro s nnn
  refine ⟨hasWord_of_packNNN 0x1 nnn rfl (by bv_omega), completes_of_jump rfl (Frame.refl [] s)
    ⟨jumpedTo_zext16 s nnn, fun hself => ?_, fun ⟨hnext, hf, hw⟩ hlow => ?_⟩⟩
  · have hpc : zext16 nnn = s.pc := BitVec.eq_of_toNat_eq ((zext16_toNat nnn).trans hself)
    rw [hpc]
    exact s.jump_self_frame
  · have hpc : (s.jump (zext16 nnn)).pc.toNat = nnn.toNat := zext16_toNat nnn
    have hgate := (cycleGates (s.jump (zext16 nnn)) hnext).2.2 hf hw (.inl (hpc.trans_lt hlow))
    rwa [hpc] at hgate

theorem offsetX_eq {nnn : Addr12} {x : RegIdx} (hx : x.val = nnn.toNat / 256) : offsetX nnn = x := by
  have := nnn.isLt
  apply Fin.ext
  rw [hx]
  simp [offsetX, nibbleToFin, Nat.shiftRight_eq_div_pow]
  omega

/-- The sum of `BNNN` does not wrap. -/
theorem offsetTarget_toNat (nnn : Addr12) (b : Byte) :
    (zext16 nnn + zextByte b).toNat = nnn.toNat + b.toNat := by
  rw [BitVec.toNat_add, zext16_toNat, zextByte, BitVec.toNat_setWidth]
  omega

theorem jumpOffset_toNat {s : State} {nnn : Addr12} {x : RegIdx} (hx : x.val = nnn.toNat / 256) :
    (s.jumpOffset nnn).toNat = if s.cfg.variant = .schip then (s.reg x).toNat else (s.reg 0).toNat := by
  rw [State.jumpOffset, offsetX_eq hx]
  exact apply_ite ..

/-- Settles O36: the first is a `Delta`, the second a jump to a sum that fits in 16 bits. -/
theorem noOpAndOffsetJump : Obligations.NoOpAndOffsetJump := by
  intro s nnn x hx
  refine ⟨hasWord_of_packNNN 0x0 nnn rfl (by bv_omega),
    completes_of_advance rfl (Frame.refl [] s) (stepped_of_advance 2 rfl),
    hasWord_of_packNNN 0xB nnn rfl (by bv_omega), completes_of_jump rfl (Frame.refl [] s) ?_⟩
  rw [← jumpOffset_toNat hx, ← offsetTarget_toNat]
  exact jumpedTo_jump s _

/-! ### Call and return (R161 to R164) -/

theorem exec_call_of_lt {s : State} (nnn : Addr12) (h : s.sp.val < 16) :
    exec (.call nnn) s = .next ((s.push h).jump (zext16 nnn)) := dif_pos h

theorem exec_call_of_full {s : State} (nnn : Addr12) (h : ¬s.sp.val < 16) :
    exec (.call nnn) s = .next (s.raiseFault .stackOverflow (nnn.setWidth 17)) := dif_neg h

theorem exec_ret_of_empty {s : State} (h : s.sp.val = 0) :
    exec .ret s = .next (s.raiseFault .stackUnderflow 0) := if_pos h

theorem exec_ret_of_ne {s : State} (h : s.sp.val ≠ 0) : exec .ret s = .next (s.pop.jump (s.top + 2)) := if_neg h

/-- The stack after a push: `pc` at the old `sp`. -/
theorem State.push_stack (s : State) (h : s.sp.val < 16) (k : Fin 16) :
    (s.push h).stack[k.val] = if k.val = s.sp.val then s.pc else s.stack[k.val] := by
  show (s.stack.set s.sp.val s.pc h)[k.val] = _
  rw [Vector.getElem_set]
  simp only [eq_comm]

/-- Settles O37: a push and a jump, or the fault of a full stack. -/
theorem callPushes : Obligations.CallPushes := by
  intro s nnn
  refine ⟨hasWord_of_packNNN 0x2 nnn rfl (by bv_omega), fun h => ?_, fun h => ?_⟩
  · exact completes_of_jump (exec_call_of_lt nnn h) (s.push_frame h)
      ⟨rfl, s.push_stack h, jumpedTo_zext16 _ nnn⟩
  · exact faults_of_raise (exec_call_of_full nnn (by omega)) (addr12_setWidth_toNat nnn)

/-- The top entry, under the index `sp - 1` (R39). -/
theorem State.top_eq {s : State} {k : Fin 16} (h : s.sp.val = k.val + 1) : s.top = s.stack[k.val] := by
  simp only [State.top, h, Nat.add_sub_cancel]

/-- Settles O38: a pop and a jump to two bytes after the popped address, or the fault of an empty stack. -/
theorem returnPops : Obligations.ReturnPops := by
  intro s
  refine ⟨rfl, fun k h => ?_, fun h => faults_of_raise (exec_ret_of_empty h) rfl⟩
  have hsp : s.pop.sp.val = k.val := by
    show s.sp.val - 1 = k.val
    omega
  have htarget : (s.top + 2).toNat = (s.stack[k.val].toNat + 2) % 65536 := by
    rw [State.top_eq h]
    exact BitVec.toNat_add _ _
  rw [← htarget]
  exact completes_of_jump (exec_ret_of_ne (by omega)) s.pop_frame ⟨hsp, rfl, jumpedTo_jump _ _⟩

/-- Settles O39: the return finds the entry that the call pushed. -/
theorem callThenReturn : Obligations.CallThenReturn := by
  intro s t u nnn hsp hcall husp hlive
  cases (exec_call_of_lt nnn hsp).symm.trans hcall
  have hu : u.sp.val = s.sp.val + 1 := congrArg Fin.val husp
  have hentry : u.stack[s.sp.val] = s.pc := by
    have hsame := hlive ⟨s.sp.val, hsp⟩ (Nat.lt_succ_self _)
    have hpushed := s.push_stack hsp ⟨s.sp.val, hsp⟩
    rw [if_pos rfl] at hpushed
    exact hsame.trans hpushed
  obtain ⟨w, hexec, hframe, hwsp, -, hjump⟩ := (returnPops u).2.1 ⟨s.sp.val, hsp⟩ hu
  refine ⟨w, hexec, hframe, Fin.ext hwsp, ?_⟩
  rwa [← hentry]

/-! ### Skips on registers and keys (R172 to R176) -/

/-- Settles O41: both skip on complementary conditions. -/
theorem registerSkips : Obligations.RegisterSkips := by
  intro s x y
  refine ⟨hasWord_of_packXYN 0x5 x y 0x0 rfl (by bv_omega), completes_of_skipIf (c := s.reg x == s.reg y) rfl ?_,
    hasWord_of_packXYN 0x9 x y 0x0 rfl (by bv_omega), completes_of_skipIf (c := s.reg x != s.reg y) rfl ?_⟩
  · simp only [beq_iff_eq]
  · simp only [bne_iff_ne, ne_eq, ite_not]

/-- The key `V[X]` names, at most 0xF or by the policy (R176). -/
theorem keyIndex_eq_some {policy : KeyIndexPolicy} {b : Byte} {k : KeyIdx} (hk : k.val = b.toNat % 16)
    (h : b.toNat ≤ 0xF ∨ policy = .lowNibble) : keyIndex policy b = some k := by
  have hnibble : lowNibble b = k := Fin.ext ((lowNibble_val b).trans hk.symm)
  unfold keyIndex
  rw [hnibble]
  rcases h with h | h
  · rw [if_pos h]
  · rw [h, ite_self]

theorem keyIndex_eq_none {policy : KeyIndexPolicy} {b : Byte} (h : b.toNat > 0xF) (hp : policy = .fault) :
    keyIndex policy b = none := by
  unfold keyIndex
  rw [if_neg (not_le.mpr h), hp]

theorem keySkip_of_some {s : State} {x : RegIdx} {k : KeyIdx} (b : Bool)
    (h : keyIndex s.cfg.keyIndexPolicy (s.reg x) = some k) :
    s.keySkip x b = .next (s.skipIf (s.keyState[k.val] == b)) := by
  rw [State.keySkip, h]

theorem keySkip_of_none {s : State} {x : RegIdx} (b : Bool)
    (h : keyIndex s.cfg.keyIndexPolicy (s.reg x) = none) :
    s.keySkip x b = .next (s.raiseFault .keyIndexOutOfRange ((s.reg x).setWidth 17)) := by
  rw [State.keySkip, h]

theorem byte_setWidth_toNat (b : Byte) : (b.setWidth 17).toNat = b.toNat := by
  rw [BitVec.toNat_setWidth]
  omega

/-- Settles O42: the key index is there or is not, as `keyIndex_eq_some` and `keyIndex_eq_none` say. -/
theorem keySkips : Obligations.KeySkips := by
  intro s x k hk
  refine ⟨hasWord_of_packXNN 0xE x 0x9E rfl (by bv_omega), hasWord_of_packXNN 0xE x 0xA1 rfl (by bv_omega),
    fun h => ?_, fun hbig hp => ?_⟩
  · have hkey := keyIndex_eq_some hk h
    refine ⟨completes_of_skipIf (keySkip_of_some true hkey) ?_,
      completes_of_skipIf (keySkip_of_some false hkey) ?_⟩ <;> cases s.keyState[k.val] <;> rfl
  · have hkey := keyIndex_eq_none hbig hp
    exact ⟨faults_of_raise (keySkip_of_none true hkey) (byte_setWidth_toNat _),
      faults_of_raise (keySkip_of_none false hkey) (byte_setWidth_toNat _)⟩

/-! ### The entries above the stack pointer (R162) -/

/-- Two states that differ at most in stack entries at and above `sp`. -/
def SameLive (t u : State) : Prop :=
  Frame [.stack] t u ∧ u.sp = t.sp ∧ ∀ k : Fin 16, k.val < t.sp.val → u.stack[k.val] = t.stack[k.val]

section
variable {s t : State} {other : Vector Word 16}

theorem sameLive_withStack (hlive : ∀ k : Fin 16, k.val < t.sp.val → other[k.val] = t.stack[k.val]) :
    SameLive t (t.withStack other) := ⟨t.withStack_frame other, rfl, hlive⟩

variable (hlive : ∀ k : Fin 16, k.val < s.sp.val → other[k.val] = s.stack[k.val])
include hlive

/-- A transition that keeps the stack, on both sides. -/
theorem sameLive_of_kept (hsp : t.sp = s.sp) (hstack : t.stack = s.stack) : SameLive t (t.withStack other) :=
  sameLive_withStack fun k hk => by rw [hstack]; exact hlive k (hsp ▸ hk)

/-- A push overwrites the first dead entry, on both sides with the same address. -/
theorem sameLive_call {nnn : Addr12} (h : exec (.call nnn) s = .next t) :
    ∃ u, exec (.call nnn) (s.withStack other) = .next u ∧ SameLive t u := by
  by_cases hsp : s.sp.val < 16
  · cases (exec_call_of_lt nnn hsp).symm.trans h
    refine ⟨_, exec_call_of_lt (s := s.withStack other) nnn hsp, ?_, rfl, fun k hk => ?_⟩
    · exact State.withStack_frame _ _
    · have hk : k.val < s.sp.val + 1 := hk
      refine ((s.withStack other).push_stack hsp k).trans (Eq.trans ?_ (s.push_stack hsp k).symm)
      show (if k.val = s.sp.val then s.pc else other[k.val]) = _
      split
      · rfl
      · exact hlive k (by omega)
  · cases (exec_call_of_full nnn hsp).symm.trans h
    exact ⟨_, exec_call_of_full (s := s.withStack other) nnn hsp, sameLive_withStack hlive⟩

/-- A pop reads the last live entry, the same on both sides. -/
theorem sameLive_ret (h : exec .ret s = .next t) :
    ∃ u, exec .ret (s.withStack other) = .next u ∧ SameLive t u := by
  by_cases hsp : s.sp.val = 0
  · cases (exec_ret_of_empty hsp).symm.trans h
    exact ⟨_, exec_ret_of_empty (s := s.withStack other) hsp, sameLive_withStack hlive⟩
  · cases (exec_ret_of_ne hsp).symm.trans h
    have htop : (s.withStack other).top = s.top := hlive ⟨s.sp.val - 1, by omega⟩ (by show s.sp.val - 1 < _; omega)
    refine ⟨_, exec_ret_of_ne (s := s.withStack other) hsp, ?_⟩
    rw [htop]
    refine sameLive_withStack (t := s.pop.jump (s.top + 2)) fun k hk => hlive k ?_
    have hk : k.val < s.sp.val - 1 := hk
    omega

theorem sameLive_exec {i : Instr} (h : exec i s = .next t) :
    ∃ u, exec i (s.withStack other) = .next u ∧ SameLive t u := by
  by_cases hp : .stack ∈ writtenParts i
  · rcases stack_written hp with rfl | ⟨nnn, rfl⟩
    · exact sameLive_ret hlive h
    · exact sameLive_call hlive h
  · have hsame := exec_keeps h hp
    refine ⟨_, exec_withStack other ?_ ?_ h, sameLive_of_kept hlive hsame.1 hsame.2⟩
    · rintro rfl
      simp [writtenParts] at hp
    · rintro nnn rfl
      simp [writtenParts] at hp

theorem sameLive_run {op : Word} (h : s.run op = .next t) :
    ∃ u, (s.withStack other).run op = .next u ∧ SameLive t u := by
  unfold State.run at h ⊢
  rw [State.withStack_cfg]
  split at h
  · exact sameLive_exec hlive h
  · cases h
    exact ⟨_, rfl, sameLive_withStack hlive⟩

/-- The gates and the fetch do not read the stack. -/
theorem sameLive_cycle (h : s.cycle = .next t) : ∃ u, (s.withStack other).cycle = .next u ∧ SameLive t u := by
  by_cases hf : s.fault = none
  · cases hw : s.displayWait with
    | true =>
      cases (cycle_of_displayWait hf hw).symm.trans h
      exact ⟨_, cycle_of_displayWait (s := s.withStack other) hf hw, sameLive_withStack hlive⟩
    | false =>
      by_cases hr : s.fetchable = true
      · rw [cycle_of_open hf hw, if_pos hr] at h
        obtain ⟨u, hu, hsame⟩ := sameLive_run hlive h
        exact ⟨u, ((cycle_of_open (s := s.withStack other) hf hw).trans (if_pos hr)).trans hu, hsame⟩
      · cases (cycle_of_pcOutOfRange hf hw hr).symm.trans h
        exact ⟨_, cycle_of_pcOutOfRange (s := s.withStack other) hf hw hr, sameLive_withStack hlive⟩
  · cases (cycle_of_fault hf).symm.trans h
    exact ⟨_, cycle_of_fault (s := s.withStack other) hf, sameLive_withStack hlive⟩

theorem sameLive_tick : SameLive s.tick (s.withStack other).tick := by
  have htick : (s.withStack other).tick = s.tick.withStack other := by
    unfold State.tick
    rw [State.withStack_fault]
    split <;> rfl
  have hsame := s.tick_frame.2 .stack (by simp)
  exact htick ▸ sameLive_of_kept hlive hsame.1 hsame.2

theorem sameLive_keyEvent (k : KeyIdx) (pressed : Bool) :
    SameLive (s.keyEvent k pressed) ((s.withStack other).keyEvent k pressed) := by
  have hkey : (s.withStack other).keyEvent k pressed = (s.keyEvent k pressed).withStack other := by
    unfold State.keyEvent
    rw [State.withStack_fault]
    split <;> rfl
  have hsame := (s.keyEvent_frame k pressed).2 .stack (by simp)
  exact hkey ▸ sameLive_of_kept hlive hsame.1 hsame.2

theorem sameLive_load {rom : List Byte} (h : s.load rom = .next t) :
    ∃ u, (s.withStack other).load rom = .next u ∧ SameLive t u := by
  obtain ⟨ho, hr, hfit, rfl⟩ := load_cases h
  have hload := load_of_loadable (s := s.withStack other) (rom := rom) ((loadable_iff s).mpr ⟨ho, hr⟩)
  exact ⟨_, hload.trans (if_pos hfit), sameLive_withStack hlive⟩

end

/-- Settles O58: event by event, what is read of the stack is live. -/
theorem deadStackEntriesNotRead : Obligations.DeadStackEntriesNotRead := by
  intro s t other hlive hstep
  show ∃ u, step (s.withStack other) = .next u ∧ SameLive t u
  cases he : s.hostEvents with
  | nil =>
    rw [step_of_nil he] at hstep
    rw [step_of_nil (s := s.withStack other) he]
    exact sameLive_cycle hlive hstep
  | cons e rest =>
    rw [step_of_cons he] at hstep
    rw [step_of_cons (s := s.withStack other) he]
    cases e with
    | cycle => exact sameLive_cycle (s := s.withHostEvents rest) hlive hstep
    | tick =>
      cases hstep
      exact ⟨_, rfl, sameLive_tick (s := s.withHostEvents rest) hlive⟩
    | keyEvent k pressed =>
      cases hstep
      exact ⟨_, rfl, sameLive_keyEvent (s := s.withHostEvents rest) hlive k pressed⟩
    | displayAck =>
      cases hstep
      exact ⟨_, rfl, sameLive_withStack hlive⟩
    | load rom => exact sameLive_load (s := s.withHostEvents rest) hlive hstep

end Sys2Proof.Machine
end

section
/-! PROOFS. The display (spec/43_display.md): the draw, the same draw twice, the resolution switch and the scrolls; and
what the SCHIP/XOCHIP instructions do on CHIP8. -/

-- One theorem after another: each that is elaborated beside the others takes a thread, and the check's memory bound
-- holds few.
set_option Elab.async false

namespace Sys2Proof.Machine

variable {s t u : State}

/-! ### The draw (R192 to R195) -/

@[simp] theorem State.dataAddr_zero (s : State) : s.dataAddr 0 = s.i.toNat := rfl

/-- The read check of a draw, in the terms of the statement (R76, R78). -/
theorem checkRead_sprite_eq_none (s : State) (x y : RegIdx) (n : Count) :
    s.checkRead (s.dataAddr 0) (s.spriteGeom x y n).nbytes = none ↔ SpriteReadable s n := by
  rw [State.checkRead_eq_none_iff, spriteGeom_nbytes]
  rfl

theorem exec_drw_of_readable {x y : RegIdx} {n : Count} (h : SpriteReadable s n) :
    exec (.drw x y n) s = .next (s.drawn x y n) := by
  rw [exec_drw, (checkRead_sprite_eq_none s x y n).mpr h]
  rfl

theorem exec_drw_of_not_readable {x y : RegIdx} {n : Count} (h : ¬SpriteReadable s n) :
    exec (.drw x y n) s =
      .next (s.raiseFault .memOutOfRange (BitVec.ofNat 17 (max s.i.toNat s.cfg.cap))) := by
  obtain ⟨hne, hcap⟩ := not_or.mp h
  rw [exec_drw, spriteGeom_nbytes, State.dataAddr_zero, State.checkRead_eq_some s _ _ hne (not_le.mp hcap)]
  rfl

/-- The address of a failed access fits in `fault_info` (R262). -/
theorem faultAddr_toNat (s : State) : (BitVec.ofNat 17 (max s.i.toNat s.cfg.cap)).toNat = max s.i.toNat s.cfg.cap := by
  have hcap := cap_bounds s.cfg
  have hi := s.i.isLt
  rw [BitVec.toNat_ofNat]
  omega

theorem drawn_frame (s : State) (x y : RegIdx) (n : Count) :
    Frame [.pc, .outcome, .framebuffer, .drawFlag, .displayWait, .regs] s (s.drawn x y n) :=
  ((s.plotted_frame x y n).trans (k := [.pc, .outcome, .framebuffer, .drawFlag, .regs])
    (State.advance_frame _ 2)).trans (State.waitForDisplay_frame _)

theorem drawn_get (s : State) (x y : RegIdx) (n : Count) (yy xx : Nat) :
    (s.drawn x y n).gfx.get yy xx = true ↔ ¬(s.gfx.get yy xx = true ↔ Covers s x y n yy xx) := by
  rw [State.drawn_gfx, drawSprite_get]

/-- `VF` after a draw is 1 iff a covered cell was set (R195). -/
theorem drawn_vf (s : State) (x y : RegIdx) (n : Count) :
    (s.drawn x y n).reg 15 = flagByte (s.drawSprite (s.spriteGeom x y n)).2 :=
  (s.drawn_reg x y n flagReg).trans (if_pos rfl)

theorem drawn_vf_one {x y : RegIdx} {n : Count}
    (h : ∃ yy xx, Covers s x y n yy xx ∧ s.gfx.get yy xx = true) : (s.drawn x y n).reg 15 = 1 := by
  rw [drawn_vf, (drawSprite_collided s x y n).mpr h]
  rfl

theorem drawn_vf_zero {x y : RegIdx} {n : Count}
    (h : ¬∃ yy xx, Covers s x y n yy xx ∧ s.gfx.get yy xx = true) : (s.drawn x y n).reg 15 = 0 := by
  rw [drawn_vf, Bool.eq_false_iff.mpr (mt (drawSprite_collided s x y n).mp h)]
  rfl

/-- Where a draw begins a display wait (R117). -/
theorem drawn_displayWait_iff (s : State) (x y : RegIdx) (n : Count) :
    (s.drawn x y n).displayWait = true ↔ s.displayWait = true ∨
      s.cfg.variant = .chip8 ∨ (s.cfg.variant = .schip ∧ s.hiresFlag = false) := by
  rw [State.drawn_displayWait, State.hires]
  cases s.cfg.variant <;> simp [Variant.loresDisplayWait]

/-- Settles O45: the sprite is readable or is not; `drawSprite_get` and `drawSprite_collided` say what a
readable one does. -/
theorem drawSprite : Obligations.DrawSprite := by
  intro s x y n
  refine ⟨hasWord_of_packXYN 0xD x y (finToNibble n) rfl ?_, fun h => ?_, fun h => ?_⟩
  · rw [finToNibble_toNat]
    bv_omega
  · refine ⟨_, exec_drw_of_readable h, drawn_frame s x y n, drawn_get s x y n, drawn_vf_one, drawn_vf_zero,
      fun r hr => ?_, s.drawn_drawFlag x y n, drawn_displayWait_iff s x y n, s.drawn_stepped x y n⟩
    have hrf : r ≠ flagReg := by simpa [flagReg] using hr
    rw [State.drawn_reg, if_neg hrf]
  · exact faults_of_raise (exec_drw_of_not_readable h) (faultAddr_toNat s)

/-! ### The same draw twice (R196) -/

section
variable (hc : u.cfg = s.cfg) (hh : u.hiresFlag = s.hiresFlag)
include hc hh

theorem surface_congr : surfaceWidth u = surfaceWidth s ∧ surfaceHeight u = surfaceHeight s := by
  simp only [surfaceWidth, surfaceHeight, hc, hh, and_self]

theorem sprite_congr (n : Count) : spriteRows u n = spriteRows s n ∧ spriteRowBytes u n = spriteRowBytes s n := by
  simp only [spriteRows, spriteRowBytes, SuperSprite, hc, hh, and_self]

theorem spriteBytes_congr (n : Count) : spriteBytes u n = spriteBytes s n := by
  obtain ⟨hrows, hbytes⟩ := sprite_congr hc hh n
  rw [spriteBytes, spriteBytes, hrows, hbytes]

theorem spriteReadable_congr (hi : u.i = s.i) (n : Count) : SpriteReadable u n ↔ SpriteReadable s n := by
  rw [SpriteReadable, SpriteReadable, spriteBytes_congr hc hh, hi, hc]

/-- Where a bit lands depends on the parameters, the resolution and the coordinates. -/
theorem landsOn_congr {x y : RegIdx} (hx : u.reg x = s.reg x) (hy : u.reg y = s.reg y) (r c yy xx : Nat) :
    LandsOn u x y r c yy xx ↔ LandsOn s x y r c yy xx := by
  obtain ⟨hw, hht⟩ := surface_congr hc hh
  simp only [LandsOn, hw, hht, hx, hy, hc]

/-- What a sprite covers depends on the parameters, the resolution, `I`, the coordinates and the sprite bytes. -/
theorem covers_congr {x y : RegIdx} {n : Count} (hi : u.i = s.i) (hx : u.reg x = s.reg x) (hy : u.reg y = s.reg y)
    (hbytes : ∀ a, s.i.toNat ≤ a → a < s.i.toNat + spriteBytes s n → u.readByte a = s.readByte a)
    (yy xx : Nat) : Covers u x y n yy xx ↔ Covers s x y n yy xx := by
  obtain ⟨hrows, hrow⟩ := sprite_congr hc hh n
  simp only [Covers, hrows, hrow, landsOn_congr hc hh hx hy]
  refine exists_congr fun r => exists_congr fun c => and_congr_right fun hr => and_congr_right fun hcol => ?_
  have hbit : SpriteBitSet u (spriteRowBytes s n) r c ↔ SpriteBitSet s (spriteRowBytes s n) r c := by
    have hin : r * spriteRowBytes s n + c / 8 < spriteBytes s n := by
      have hrow : (r + 1) * spriteRowBytes s n ≤ spriteRows s n * spriteRowBytes s n := Nat.mul_le_mul_right _ hr
      rw [Nat.add_mul, Nat.one_mul] at hrow
      rw [spriteBytes]
      omega
    rw [SpriteBitSet, SpriteBitSet, hi, hbytes _ (by omega) (by omega)]
  rw [hbit]

end

/-- Inverting a cell twice restores it. -/
theorem iff_not_iff_twice {a b c : Prop} (h : b ↔ ¬(a ↔ c)) : ¬(b ↔ c) ↔ a := by tauto

/-- Settles O46: the second draw covers the same cells, so it inverts them back. -/
theorem drawTwiceRestores : Obligations.DrawTwiceRestores := by
  intro s t u x y n hread ht hc hh hi hx hy hbytes hcells
  cases (exec_drw_of_readable hread).symm.trans ht
  have hcov := covers_congr hc hh hi hx hy hbytes
  have hfirst := drawn_get s x y n
  refine ⟨_, exec_drw_of_readable ((spriteReadable_congr hc hh hi n).mpr hread), (u.drawn_stepped x y n).2,
    fun yy xx => ?_, fun hclear => ⟨drawn_vf_zero ?_, fun yy xx => ?_, fun hex => drawn_vf_one ?_,
      fun hno => drawn_vf_zero ?_⟩⟩
  · rw [Bool.eq_iff_iff, drawn_get, hcov, hcells]
    exact iff_not_iff_twice (hfirst yy xx)
  · rintro ⟨yy, xx, -, hset⟩
    cases (hclear yy xx).symm.trans hset
  · rw [hfirst, hclear]
    simp
  · obtain ⟨yy, xx, hcover⟩ := hex
    refine ⟨yy, xx, (hcov yy xx).mpr hcover, ?_⟩
    rw [hcells, hfirst, hclear]
    simp [hcover]
  · rintro ⟨yy, xx, hcover, -⟩
    exact hno ⟨yy, xx, (hcov yy xx).mp hcover⟩

/-! ### Resolution and scrolls (R197 to R203) -/

/-- An "S/X" instruction where it exists. -/
theorem completes_of_onExtended {i : Instr} {l : List Part} {post : State → Prop} (hv : s.cfg.variant ≠ .chip8)
    (he : exec i s = s.onExtended u) (hf : Frame l s u) (hp : post (u.advance 2)) : Completes i s l post :=
  completes_of_advance (he.trans (onExtended_of_ne_chip8 hv)) hf hp

theorem State.selectResolution_frame (s : State) (high : Bool) :
    Frame [.resolution, .framebuffer, .drawFlag] s (s.selectResolution high) :=
  (s.withHiresFlag_frame high).trans (State.present_frame _ _)

theorem State.selectResolution_gfx (s : State) (high : Bool) :
    (s.selectResolution high).gfx = if s.cfg.variant = .xochip then Gfx.clear else s.gfx := rfl

/-- Settles O47: both are one resolution selection. -/
theorem resolutionSwitch : Obligations.ResolutionSwitch := by
  intro s hv
  have hpost (high : Bool) :
      ((s.selectResolution high).advance 2).hiresFlag = high ∧
        ((s.selectResolution high).advance 2).drawFlag = true ∧
        (s.cfg.variant = .xochip → ∀ yy xx, ((s.selectResolution high).advance 2).gfx.get yy xx = false) ∧
        (s.cfg.variant = .schip → ((s.selectResolution high).advance 2).gfx = s.gfx) ∧
        Stepped s ((s.selectResolution high).advance 2) 2 := by
    refine ⟨rfl, rfl, fun hx yy xx => ?_, fun hs => ?_, stepped_of_advance 2 (by simp)⟩
    · rw [State.advance_gfx, State.selectResolution_gfx, if_pos hx, Gfx.get_clear]
    · rw [State.advance_gfx, State.selectResolution_gfx, if_neg (by rw [hs]; decide)]
  exact ⟨rfl, completes_of_onExtended hv rfl (s.selectResolution_frame false) (hpost false),
    rfl, completes_of_onExtended hv rfl (s.selectResolution_frame true) (hpost true)⟩

/-- A move of cells by its sources (R199): on a surface of `h` rows and `w` columns, cell `(yy, xx)` takes the value of
`source yy xx` where `has yy xx`, which is then on the surface, and of none elsewhere. -/
structure MoveSource (h w : Nat) (move : Nat × Nat → Option (Nat × Nat)) (has : Nat → Nat → Bool)
    (source : Nat → Nat → Nat × Nat) : Prop where
  moves : ∀ y x yy xx, y < h → x < w →
    (move (y, x) = some (yy, xx) ↔ (yy < h ∧ xx < w) ∧ has yy xx = true ∧ source yy xx = (y, x))
  inside : ∀ yy xx, yy < h → xx < w → has yy xx = true → (source yy xx).1 < h ∧ (source yy xx).2 < w

section
variable {g : Gfx} {h w : Nat} {move : Nat × Nat → Option (Nat × Nat)} {has : Nat → Nat → Bool}
  {source : Nat → Nat → Nat × Nat} (hm : MoveSource h w move has source)
include hm

/-- The cells of the surface that a set cell moves to. -/
theorem exists_move_iff (yy xx : Nat) :
    (∃ p ∈ g, onSurface h w p = true ∧ move p = some (yy, xx)) ↔
      (yy < h ∧ xx < w) ∧ has yy xx = true ∧ source yy xx ∈ g := by
  simp only [onSurface, Bool.and_eq_true, decide_eq_true_eq]
  constructor
  · rintro ⟨⟨y, x⟩, hp, ⟨hy, hx⟩, hmove⟩
    obtain ⟨hin, hhas, hsource⟩ := (hm.moves y x yy xx hy hx).mp hmove
    exact ⟨hin, hhas, hsource ▸ hp⟩
  · rintro ⟨hin, hhas, hp⟩
    obtain ⟨hy, hx⟩ := hm.inside yy xx hin.1 hin.2 hhas
    exact ⟨source yy xx, hp, ⟨hy, hx⟩, (hm.moves _ _ yy xx hy hx).mpr ⟨hin, hhas, rfl⟩⟩

/-- A cell after a scroll: its source's value on the surface, as before outside it (R199). -/
theorem scroll_get (yy xx : Nat) :
    (g.scroll h w move).get yy xx =
      if yy < h ∧ xx < w then has yy xx && g.get (source yy xx).1 (source yy xx).2 else g.get yy xx := by
  have hon : onSurface h w (yy, xx) = decide (yy < h ∧ xx < w) := by simp only [onSurface, Bool.decide_and]
  rw [Bool.eq_iff_iff, Gfx.get_iff, Gfx.mem_scroll, exists_move_iff hm, hon]
  split
  · next hin => simp [hin, Gfx.get_iff]
  · next hout => simp [hout, Gfx.get_iff]

end

section
variable (h w n : Nat)

theorem moveSource_down :
    MoveSource h w (moveDown h n) (fun yy _ => decide (n ≤ yy)) (fun yy xx => (yy - n, xx)) := by
  constructor <;> intros <;> simp_all [moveDown] <;> omega

theorem moveSource_up :
    MoveSource h w (moveUp n) (fun yy _ => decide (yy + n < h)) (fun yy xx => (yy + n, xx)) := by
  constructor <;> intros <;> simp_all [moveUp]; omega

theorem moveSource_right :
    MoveSource h w (moveRight w n) (fun _ xx => decide (n ≤ xx)) (fun yy xx => (yy, xx - n)) := by
  constructor <;> intros <;> simp_all [moveRight] <;> omega

theorem moveSource_left :
    MoveSource h w (moveLeft n) (fun _ xx => decide (xx + n < w)) (fun yy xx => (yy, xx + n)) := by
  constructor <;> intros <;> simp_all [moveLeft]; omega

end

theorem completes_of_scroll {i : Instr} {move : Nat × Nat → Option (Nat × Nat)} {has : Nat → Nat → Bool}
    {source : Nat → Nat → Nat × Nat} (hv : s.cfg.variant ≠ .chip8) (he : exec i s = s.onExtended (s.scrollBy move))
    (hm : MoveSource (surfaceHeight s) (surfaceWidth s) move has source) :
    Completes i s [.framebuffer, .drawFlag] (fun t =>
      (∀ yy xx, t.gfx.get yy xx =
        if yy < surfaceHeight s ∧ xx < surfaceWidth s then
          has yy xx && s.gfx.get (source yy xx).1 (source yy xx).2
        else s.gfx.get yy xx) ∧
      t.drawFlag = true ∧ Stepped s t 2) := by
  refine completes_of_onExtended hv he (s.present_frame _) ⟨fun yy xx => ?_, rfl, stepped_of_advance 2 (by simp)⟩
  rw [State.advance_gfx, State.scrollBy, State.present_gfx, effHeight_eq, effWidth_eq]
  exact scroll_get hm yy xx

theorem exec_scd (n : Count) (s : State) :
    exec (.scd n) s = s.onExtended (s.scrollBy (moveDown (surfaceHeight s) n.val)) := by
  rw [← effHeight_eq]
  rfl

theorem exec_scr (s : State) : exec .scr s = s.onExtended (s.scrollBy (moveRight (surfaceWidth s) 4)) := by
  rw [← effWidth_eq]
  rfl

/-- Settles O48: each scroll is a move of cells by its sources, one `MoveSource` each. -/
theorem scrollsMoveTheSurface : Obligations.ScrollsMoveTheSurface := by
  intro s n hv
  have hn := finToNibble_toNat n
  exact ⟨hasWord_of_packXYN 0 0 0xC (finToNibble n) rfl (by rw [hn]; bv_omega),
    completes_of_scroll hv (exec_scd n s) (moveSource_down _ _ n.val),
    hasWord_of_packXYN 0 0 0xD (finToNibble n) rfl (by rw [hn]; bv_omega),
    completes_of_scroll hv rfl (moveSource_up _ _ n.val),
    rfl, completes_of_scroll hv (exec_scr s) (moveSource_right _ _ 4),
    rfl, completes_of_scroll hv rfl (moveSource_left _ _ 4)⟩

/-! ### The same instructions on CHIP8 (R95, R99, log 13) -/

theorem exec_ldHf_of_chip8 (x : RegIdx) (hv : s.cfg.variant = .chip8) :
    exec (.ldHf x) s = .next (s.raiseFault .illegalOpcode ((encodeWord (.ldHf x)).setWidth 17)) := by
  refine if_neg ?_
  rw [hv]
  decide

/-- An "S/X" instruction on CHIP8, the no-op of its word. -/
theorem completes_of_onExtended_chip8 {i : Instr} (hv : s.cfg.variant = .chip8) (he : exec i s = s.onExtended u) :
    Completes i s [] (fun t => Stepped s t 2) :=
  completes_of_advance (he.trans (onExtended_of_chip8 hv)) (Frame.refl [] s) (stepped_of_advance 2 rfl)

/-- Settles O49: the guard of the "S/X" instructions is closed. -/
theorem extendedOnChip8 : Obligations.ExtendedOnChip8 := by
  intro s n x hv
  refine ⟨fun i hi => ?_, faults_of_raise (exec_ldHf_of_chip8 x hv) ?_⟩
  · simp only [List.mem_cons, List.not_mem_nil, or_false] at hi
    rcases hi with rfl | rfl | rfl | rfl | rfl | rfl <;> exact completes_of_onExtended_chip8 hv rfl
  · rw [pc_setWidth_toNat]
    exact hasWord_familyF x 0x30 rfl

end Sys2Proof.Machine
end

section
/-! PROOFS. The address register, the glyph addresses and the transfers between registers and memory
(spec/44_memory_transfer.md). -/

-- One theorem after another: each that is elaborated beside the others takes a thread, and the check's memory bound
-- holds few.
set_option Elab.async false

namespace Sys2Proof.Machine

variable {s u : State} {i : Instr}

/-! ### The address register (R220 to R222) -/

theorem addressFlag_reg_of_ne {o : Bool} {r : RegIdx} (hr : r ≠ flagReg) : (s.addressFlag o).reg r = s.reg r := by
  unfold State.addressFlag
  split
  · rw [State.reg_setFlag, if_neg hr]
  · split
    · rfl
    · rw [State.reg_setFlag, if_neg hr]

theorem addressFlag_vf_of_overflow : (s.addressFlag true).reg 15 = 1 := s.reg_15_setFlag 1

theorem addressFlag_vf_of_unchanged (hp : s.cfg.fx1eVfNoOvf = .unchanged) :
    (s.addressFlag false).reg 15 = s.reg 15 := by
  simp only [State.addressFlag, hp, Bool.false_eq_true, if_false]

theorem addressFlag_vf_of_zero (hp : s.cfg.fx1eVfNoOvf = .zero) : (s.addressFlag false).reg 15 = 0 := by
  simp only [State.addressFlag, hp, Bool.false_eq_true, if_false]
  exact s.reg_15_setFlag 0

theorem addressOverflow_eq_true {x : RegIdx} (h : s.addressSum x ≥ s.cfg.cap) : s.addressOverflow x = true :=
  decide_eq_true h

theorem addressOverflow_eq_false {x : RegIdx} (h : s.addressSum x < s.cfg.cap) : s.addressOverflow x = false :=
  decide_eq_false (not_le.mpr h)

/-- The effect of `FX1E`: `I`, then the flag. -/
theorem indexAndFlag_frame (s : State) (a : Word) (o : Bool) :
    Frame [.index, .regs] s ((s.withI a).addressFlag o) :=
  (s.withI_frame a).trans (State.addressFlag_frame _ o)

/-- Settles O50: the flag of `FX1E` by its three cases, overflow and the two policies. -/
theorem addressRegister : Obligations.AddressRegister := by
  intro s nnn x
  refine ⟨hasWord_of_packNNN 0xA nnn rfl (by bv_omega),
    completes_of_advance rfl (s.withI_frame _) ⟨zext16_toNat nnn, stepped_of_advance 2 (by simp)⟩,
    hasWord_familyF x 0x1E rfl,
    completes_of_advance rfl (indexAndFlag_frame s _ _) ⟨?_, fun h => ?_, fun h hp => ?_, fun h hp => ?_,
      fun r hr => ?_, stepped_of_advance 2 (by simp)⟩⟩
  · rw [State.advance_i, State.addressFlag_i]
    exact addressWrapped_toNat s x
  · rw [State.advance_reg, addressOverflow_eq_true h]
    exact addressFlag_vf_of_overflow
  · rw [State.advance_reg, addressOverflow_eq_false h]
    exact addressFlag_vf_of_unchanged (s := s.withI (s.addressWrapped x)) hp
  · rw [State.advance_reg, addressOverflow_eq_false h]
    exact addressFlag_vf_of_zero (s := s.withI (s.addressWrapped x)) hp
  · have hrf : r ≠ flagReg := by simpa [flagReg] using hr
    rw [State.advance_reg, addressFlag_reg_of_ne hrf, State.withI_reg]

/-! ### Glyphs (R223 to R225) -/

theorem exec_ldHf_of_ne_chip8 (x : RegIdx) (hv : s.cfg.variant ≠ .chip8) :
    exec (.ldHf x) s = .next ((s.withI (s.glyphHi x)).advance 2) := if_pos ((isExtended_iff _).mpr hv)

/-- Settles O51: the glyph addresses as numbers, and the guard of `FX30` is open. -/
theorem glyphAddresses : Obligations.GlyphAddresses := by
  intro s x
  refine ⟨hasWord_familyF x 0x29 rfl,
    completes_of_advance rfl (s.withI_frame _) ⟨glyphLoAddr_toNat _, stepped_of_advance 2 (by simp)⟩,
    hasWord_familyF x 0x30 rfl, fun hv =>
    completes_of_advance (exec_ldHf_of_ne_chip8 x hv) (s.withI_frame _)
      ⟨fun hd => ?_, fun hd => BitVec.eq_of_toNat_eq ?_, stepped_of_advance 2 (by simp)⟩⟩
  · exact (glyphHi_toNat s x).trans (if_pos hd)
  · exact (glyphHi_toNat s x).trans (if_neg (not_le.mpr hd))

/-! ### Checks come before effects (R78) -/

theorem completes_of_guarded {failed : Option (Fault × Nat)} {l : List Part} {post : State → Prop}
    (he : exec i s = s.guarded failed (u.advance 2)) (hpass : failed = none) (hf : Frame l s u)
    (hp : post (u.advance 2)) : Completes i s l post :=
  completes_of_advance (he.trans (by rw [hpass]; rfl)) hf hp

theorem faults_of_guarded {failed : Option (Fault × Nat)} {r : Fault} {a : Nat}
    (he : exec i s = s.guarded failed u) (hfail : failed = some (r, a)) (ha : a < 2 ^ 17) : Faults i s r a :=
  faults_of_raise (info := BitVec.ofNat 17 a) (he.trans (by rw [hfail]; rfl)) (Nat.mod_eq_of_lt ha)

theorem faultAddr_lt (s : State) : max s.i.toNat s.cfg.cap < 2 ^ 17 := by
  have hcap := cap_bounds s.cfg
  have hi := s.i.isLt
  omega

theorem checkRead_pass {n : Nat} (h : s.i.toNat + n + 1 ≤ s.cfg.cap) :
    s.checkRead (s.dataAddr 0) (n + 1) = none :=
  (s.checkRead_eq_none_iff _ _).mpr (.inr h)

theorem checkWrite_pass {n : Nat} (hlow : 0x200 ≤ s.i.toNat) (h : s.i.toNat + n + 1 ≤ s.cfg.cap) :
    s.checkWrite (s.dataAddr 0) (n + 1) = none :=
  (s.checkWrite_eq_none_iff _ _).mpr (.inr ⟨hlow, h⟩)

/-- A load of `n + 1` bytes past CAP faults at the first address at or above it (R76). -/
theorem faults_of_checkRead {n : Nat} (he : exec i s = s.guarded (s.checkRead (s.dataAddr 0) (n + 1)) u)
    (h : s.cfg.cap < s.i.toNat + n + 1) : Faults i s .memOutOfRange (max s.i.toNat s.cfg.cap) :=
  faults_of_guarded he (s.checkRead_eq_some _ _ (Nat.succ_ne_zero n) h) (faultAddr_lt s)

section
variable {n : Nat} (he : exec i s = s.guarded (s.checkWrite (s.dataAddr 0) (n + 1)) u)
include he

/-- A store that starts below 0x200 faults there (R77). -/
theorem faults_of_checkWrite_low (h : s.i.toNat < 0x200) : Faults i s .protectedWrite s.i.toNat := by
  have hcap := cap_bounds s.cfg
  exact faults_of_guarded he (s.checkWrite_eq_protected _ _ (Nat.succ_ne_zero n) h (by show s.i.toNat < _; omega))
    (by omega)

/-- A store of `n + 1` bytes past CAP faults at the first address at or above it (R77). -/
theorem faults_of_checkWrite_high (hlow : 0x200 ≤ s.i.toNat) (h : s.cfg.cap < s.i.toNat + n + 1) :
    Faults i s .memOutOfRange (max s.i.toNat s.cfg.cap) :=
  faults_of_guarded he (s.checkWrite_eq_range _ _ hlow (Nat.succ_ne_zero n) h) (faultAddr_lt s)

end

/-! ### BCD (R230) -/

theorem exec_ldB (x : RegIdx) (s : State) :
    exec (.ldB x) s = s.guarded (s.checkWrite (s.dataAddr 0) (2 + 1))
      ((s.writeBytes (s.dataAddr 0) (bcdDigits (s.reg x))).advance 2) := rfl

/-- A written byte. -/
theorem readByte_writeBytes_at {bs : List Byte} {k : Nat} (h : k < bs.length) :
    (s.writeBytes (s.dataAddr 0) bs).readByte (s.dataAddr k) = bs[k] := by
  rw [State.readByte_writeBytes, State.dataAddr, State.dataAddr, if_pos (by omega), ← List.getD_eq_getElem _ 0 h]
  congr 1
  omega

/-- A byte outside the written ones. -/
theorem readByte_writeBytes_outside {bs : List Byte} {a : Nat} (h : a < s.dataAddr 0 ∨ s.dataAddr bs.length ≤ a) :
    (s.writeBytes (s.dataAddr 0) bs).readByte a = s.readByte a := by
  have h : a < s.i.toNat ∨ s.i.toNat + bs.length ≤ a := h
  rw [State.readByte_writeBytes, State.dataAddr_zero, if_neg (by omega)]

theorem bcdDigits_length (b : Byte) : (bcdDigits b).length = 3 := rfl

/-- The first digit needs no reduction. -/
theorem bcdDigits_hundreds (b : Byte) (h : 0 < (bcdDigits b).length) : ((bcdDigits b)[0]).toNat = b.toNat / 100 := by
  have hb := b.isLt
  refine (BitVec.toNat_ofNat (b.toNat / 100 % 10) 8).trans ?_
  omega

theorem bcdDigits_tens (b : Byte) (h : 1 < (bcdDigits b).length) :
    ((bcdDigits b)[1]).toNat = b.toNat / 10 % 10 := by
  refine (BitVec.toNat_ofNat (b.toNat / 10 % 10) 8).trans ?_
  omega

theorem bcdDigits_ones (b : Byte) (h : 2 < (bcdDigits b).length) : ((bcdDigits b)[2]).toNat = b.toNat % 10 := by
  refine (BitVec.toNat_ofNat (b.toNat % 10) 8).trans ?_
  omega

/-- Settles O52: three checked bytes, read back one by one. -/
theorem bcdStore : Obligations.BcdStore := by
  intro s x
  have hlen := bcdDigits_length (s.reg x)
  refine ⟨hasWord_familyF x 0x33 rfl, fun hlow hcap => ?_, faults_of_checkWrite_low (exec_ldB x s),
    faults_of_checkWrite_high (exec_ldB x s)⟩
  refine completes_of_guarded (exec_ldB x s) (checkWrite_pass hlow hcap) (s.writeBytes_frame _ _)
    ⟨?_, ?_, ?_, fun a h0 h1 h2 => ?_, stepped_of_advance 2 (by simp)⟩
  · rw [State.advance_readByte, readByte_writeBytes_at (by omega), bcdDigits_hundreds]
  · rw [State.advance_readByte, readByte_writeBytes_at (by omega), bcdDigits_tens]
  · rw [State.advance_readByte, readByte_writeBytes_at (by omega), bcdDigits_ones]
  · rw [State.advance_readByte, readByte_writeBytes_outside]
    simp only [State.dataAddr] at h0 h1 h2 ⊢
    omega

/-! ### Registers to memory and back (R231 to R234) -/

theorem exec_storeRegs (x : RegIdx) (s : State) :
    exec (.storeRegs x) s = s.guarded (s.checkWrite (s.dataAddr 0) (x.val + 1))
      (((s.writeBytes (s.dataAddr 0) (s.regsUpTo x)).withI (s.afterTransfer x)).advance 2) := rfl

theorem exec_loadRegs (x : RegIdx) (s : State) :
    exec (.loadRegs x) s = s.guarded (s.checkRead (s.dataAddr 0) (x.val + 1))
      (((s.setRegsUpTo x fun k => s.readByte (s.dataAddr k.val)).withI (s.afterTransfer x)).advance 2) := rfl

theorem readByte_writeBytes_regsUpTo {x k : RegIdx} (hk : k ≤ x) :
    (s.writeBytes (s.dataAddr 0) (s.regsUpTo x)).readByte (s.dataAddr k.val) = s.reg k := by
  have hlen : k.val < (s.regsUpTo x).length := by
    rw [State.regsUpTo_length]
    exact Nat.lt_succ_of_le hk
  rw [readByte_writeBytes_at hlen]
  exact Option.some.inj ((List.getElem?_eq_getElem hlen).symm.trans (s.regsUpTo_getElem x k.val hk))

/-- Settles O53: the checks pass or report the first bad address; the stored bytes are `V[0..X]`. -/
theorem storeRegisters : Obligations.StoreRegisters := by
  intro s x
  refine ⟨hasWord_familyF x 0x55 rfl, fun hlow hcap => ?_, faults_of_checkWrite_low (exec_storeRegs x s),
    faults_of_checkWrite_high (exec_storeRegs x s)⟩
  refine completes_of_guarded (exec_storeRegs x s) (checkWrite_pass hlow hcap)
    ((s.writeBytes_frame _ _).trans (State.withI_frame _ _))
    ⟨fun k hk => ?_, fun a ha => ?_, afterTransfer_toNat s x, stepped_of_advance 2 (by simp)⟩
  · rw [State.advance_readByte, State.withI_readByte, readByte_writeBytes_regsUpTo hk]
  · rw [State.advance_readByte, State.withI_readByte, readByte_writeBytes_outside]
    rwa [State.regsUpTo_length]

/-- Settles O54: the check passes or reports the first bad address; the loaded registers are the bytes read. -/
theorem loadRegisters : Obligations.LoadRegisters := by
  intro s x
  refine ⟨hasWord_familyF x 0x65 rfl, fun hcap => ?_, faults_of_checkRead (exec_loadRegs x s)⟩
  refine completes_of_guarded (exec_loadRegs x s) (checkRead_pass hcap)
    ((s.setRegsUpTo_frame x _).trans (State.withI_frame _ _))
    ⟨fun k => ?_, afterTransfer_toNat s x, stepped_of_advance 2 (by simp)⟩
  rw [State.advance_reg, State.withI_reg, State.reg_setRegsUpTo]

/-- Settles O55: the load of O54 reads, byte for byte, what the store of O53 left; both advance `I` alike. -/
theorem storeThenLoadRestores : Obligations.StoreThenLoadRestores := by
  intro s t u x hlow hcap hstore hcfg hi hbytes
  obtain ⟨t', hstore', -, hstored, -, hti, -⟩ := (storeRegisters s x).2.1 hlow hcap
  cases hstore'.symm.trans hstore
  obtain ⟨w, hload, -, hloaded, hwi, -, hstepped⟩ := (loadRegisters u x).2.1 (by rwa [hi, hcfg])
  refine ⟨w, hload, hstepped, fun k hk => ?_, BitVec.eq_of_toNat_eq ?_⟩
  · have haddr : u.dataAddr k.val = s.dataAddr k.val := congrArg (·.toNat + k.val) hi
    have hkx : k.val ≤ x.val := hk
    rw [hloaded, if_pos hk, haddr]
    exact (hbytes _ (Nat.le_add_right _ _) (Nat.add_le_add_left hkx _)).trans (hstored k hk)
  · rw [hwi, hti, hcfg, hi]

/-! ### The user registers (R235 to R237) -/

/-- A request is in range as its variant has user registers: none, 8 or 16 (R48, R235). -/
theorem userInRange_iff (c : Config) (x : RegIdx) :
    userInRange c x = true ↔
      match c.variant with
      | .chip8 => False
      | .schip => x.val < 8
      | .xochip => True := by
  unfold userInRange
  cases c.variant with
  | chip8 => simp [Variant.userRegisterCount]
  | schip => exact decide_eq_true_iff
  | xochip => simp [Variant.userRegisterCount]

theorem exec_storeUser (x : RegIdx) (s : State) :
    exec (.storeUser x) s = .next ((if userInRange s.cfg x then s.setUserRegsUpTo x s.reg else s).advance 2) := rfl

theorem exec_loadUser (x : RegIdx) (s : State) :
    exec (.loadUser x) s = .next ((if userInRange s.cfg x then s.setRegsUpTo x s.userReg else s).advance 2) := rfl

theorem State.setUserRegsUpTo_frame (s : State) (x : RegIdx) (f : RegIdx → Byte) :
    Frame [.userRegs] s (s.setUserRegsUpTo x f) := s.withUserRegs_frame _

/-- Settles O56: `userRegisterCount` decides the range; in range it is one update of a register file. -/
theorem userRegisterTransfers : Obligations.UserRegisterTransfers := by
  intro s x inRange
  have hrange : userInRange s.cfg x = true ↔ inRange := userInRange_iff s.cfg x
  rw [← hrange]
  refine ⟨hasWord_familyF x 0x75 rfl, hasWord_familyF x 0x85 rfl, fun h => ⟨?_, ?_⟩, fun h => ⟨?_, ?_⟩⟩
  · refine completes_of_advance ((exec_storeUser x s).trans (by rw [if_pos h])) (s.setUserRegsUpTo_frame x _)
      ⟨fun k => ?_, stepped_of_advance 2 (by simp)⟩
    rw [State.advance_userReg, State.userReg_setUserRegsUpTo]
  · refine completes_of_advance ((exec_loadUser x s).trans (by rw [if_pos h])) (s.setRegsUpTo_frame x _)
      ⟨fun k => ?_, stepped_of_advance 2 (by simp)⟩
    rw [State.advance_reg, State.reg_setRegsUpTo]
  · exact completes_of_advance ((exec_storeUser x s).trans (by rw [if_neg h])) (Frame.refl [] s)
      (stepped_of_advance 2 rfl)
  · exact completes_of_advance ((exec_loadUser x s).trans (by rw [if_neg h])) (Frame.refl [] s)
      (stepped_of_advance 2 rfl)

end Sys2Proof.Machine
end
